-- ==== Sys2Proof/Word.lean ====
section
/-! DEFINITION. The word types of the block (spec/00_scope.md R9, R10) and the small closed sets of names that
instructions, peripheral calls and results speak of. Everything here is unsigned. -/

namespace Sys2Proof

/-- A data byte or an 8-bit bus address (`ADDR_BITS = 8`, R9, R25). -/
abbrev Byte := BitVec 8

/-- A 32-bit unsigned word: a clock rate, a quantity, a count, a handle or a result (R9, R75, R80). -/
abbrev Word := BitVec 32

/-- The 64-bit command word of R71. -/
abbrev CommandWord := BitVec 64

/-- The two ring buffers, selected by the field `S` (R71, R75): `tx` is 0 and `rx` is 1. -/
inductive BufSel where
  | tx
  | rx
deriving DecidableEq, Repr

/-- The direction of a bus transaction (R216). -/
inductive Direction where
  | write
  | read
deriving DecidableEq, Repr

/-- The three command classes of R73. -/
inductive CmdClass where
  | host
  | event
  | internal
deriving DecidableEq, Repr

/-- The error codes of R231, under the source's names. -/
inductive ErrorCode where
  | success
  | dataTooLong
  | addressNack
  | dataNack
  | timeout
  | other
deriving DecidableEq, Repr

end Sys2Proof
end

