-- ==== Sys2Proof/Config.lean ====
section
/-! DEFINITION. What one implementation of the block fixes (spec/00_scope.md R9) and the free values the spec leaves
open: opaque constants with no body, so that no proof can see what they are. The parameters that a step reads are plain
data (`Config`), held in `State.cfg`, so that a claim over every state is a claim over every parameter. -/

namespace Sys2Proof

/-- The parameter `OWNER_UNSAMPLED` of R9 and R129: how an ownership value that was never sampled is read. -/
inductive OwnerUnsampled where
  | retained
  | draw
deriving DecidableEq, Repr

/-- The parameters of R9 that a command reads: `N_CAP` and `OWNER_UNSAMPLED`. -/
structure Config where
  nCap : Nat
  ownerUnsampled : OwnerUnsampled
deriving DecidableEq, Repr

/-- R9: `1 <= N_CAP <= 2^31 - 1`. -/
abbrev Config.wf (c : Config) : Prop := 1 ≤ c.nCap ∧ c.nCap ≤ 2147483647

/-- Free value: the number from which the OPEN capacity `N_CAP` (R9) of the block at reset is made. -/
opaque Config.capacitySeed : Nat

/-- The OPEN parameter `N_CAP` of R9, any number from 1 to `2^31 - 1`. -/
def Config.nCapAtReset : Nat := Config.capacitySeed % 2147483647 + 1

/-- Free value: the OPEN parameter `DEFAULT_CLOCK` of R9, the reset value of `activeClockRate`. -/
opaque Config.defaultClock : Word

/-- Free value: `targetAddress` at creation, "any 8-bit value" (R260). -/
opaque Config.targetAddressAtReset : Byte

/-- Free value: the storage bytes of `tx` and `rx` at creation, unspecified and unobservable (R29). -/
opaque Config.storageAtReset : BufSel → Nat → Byte

/-- Free value: the boolean of the `n`-th answer of the peripheral, or of the draw `d` of R129, where the state's own
list of answers is used up (R201). -/
opaque Config.freeFlag : Nat → Bool

/-- Free value: the byte of the `n`-th answer of the peripheral where the state's own list is used up (R201, R208). -/
opaque Config.freeByte : Nat → Byte

end Sys2Proof
end

