-- ==== Sys2Proof/Syntax.lean ====
section
/-! DEFINITION. The commands of the block, one constructor for each row of spec/opcode_table.json (spec/30_encoding.md
R74), with the operands R76 gives them. -/

namespace Sys2Proof

/-- One command of the block (R74). `writeBytes` carries its count operand `W` and the payload that follows the command
word (R77); WellFormed says that the two agree. -/
inductive Instr where
  /-- BEGIN_MASTER: `begin()` -/
  | beginMaster
  /-- BEGIN_SLAVE: `begin(address, acceptGeneralCall)` -/
  | beginSlave (address : Byte) (generalCall : Bool)
  /-- SET_CLOCK: `setClock(rate)` -/
  | setClock (rate : Word)
  /-- END: `end()` -/
  | endBus
  /-- BEGIN_TRANSMISSION: `beginTransmission(address)` -/
  | beginTransmission (address : Byte)
  /-- WRITE_BYTE: `write(byte)` -/
  | writeByte (value : Byte)
  /-- WRITE_BYTES: `write(bytes, count)` -/
  | writeBytes (count : Word) (payload : List Byte)
  /-- END_TRANSMISSION: `endTransmission(stopBit)` -/
  | endTransmission (stopBit : Bool)
  /-- REQUEST_FROM: `requestFrom(address, quantity, stopBit)` -/
  | requestFrom (address : Byte) (quantity : Word) (stopBit : Bool)
  /-- AVAILABLE: `available()` -/
  | available
  /-- READ: `read()` -/
  | read
  /-- PEEK: `peek()` -/
  | peek
  /-- ON_RECEIVE: `onReceive(callback)`; `register = false` is the deregistration form -/
  | onReceive (register : Bool) (handle : Word)
  /-- ON_REQUEST: `onRequest(callback)`; `register = false` is the deregistration form -/
  | onRequest (register : Bool) (handle : Word)
  /-- SERVICE: `onService()`, raised by the peripheral -/
  | service
  /-- BUF_STORE: `buf.store(B, byte)` -/
  | bufStore (buf : BufSel) (value : Byte)
  /-- BUF_READ: `buf.read(B)` -/
  | bufRead (buf : BufSel)
  /-- BUF_PEEK: `buf.peek(B)` -/
  | bufPeek (buf : BufSel)
  /-- BUF_AVAILABLE: `buf.available(B)` -/
  | bufAvailable (buf : BufSel)
  /-- BUF_ISFULL: `buf.isFull(B)` -/
  | bufIsFull (buf : BufSel)
  /-- BUF_CLEAR: `buf.clear(B)` -/
  | bufClear (buf : BufSel)
deriving DecidableEq, Repr

end Sys2Proof
end

