-- ==== Sys2Proof/WellFormed.lean ====
section
/-! DEFINITION. Which terms of `Instr` are commands. The field widths are in the types; the one relation the types do not
hold is that the payload of WRITE_BYTES has exactly `W` bytes (spec/30_encoding.md R77). -/

namespace Sys2Proof

/-- R77: the payload of WRITE_BYTES has exactly as many bytes as its count operand says. -/
def Instr.payloadMatches : Instr → Bool
  | .writeBytes count payload => payload.length == count.toNat
  | _ => true

/-- A term that is a command. -/
abbrev Instr.wellFormed (i : Instr) : Bool := i.payloadMatches

end Sys2Proof
end

