-- ==== Sys2Proof/Decode.lean ====
section
/-! DEFINITION. Decoding and encoding of the 64-bit command word (spec/30_encoding.md R71 to R79, spec/opcode_table.json).
The decoder is total: it answers a command or the name of what is wrong. The encoder lays the fields out as R71 does; a
serialized command is its eight bytes in little-endian order (R78), followed by the payload (R77). -/

namespace Sys2Proof

/-- The rows of the opcode map (R74), under the names of `Instr`. -/
inductive Opcode where
  | beginMaster
  | beginSlave
  | setClock
  | endBus
  | beginTransmission
  | writeByte
  | writeBytes
  | endTransmission
  | requestFrom
  | available
  | read
  | peek
  | onReceive
  | onRequest
  | service
  | bufStore
  | bufRead
  | bufPeek
  | bufAvailable
  | bufIsFull
  | bufClear
deriving DecidableEq, Repr

/-- Why a word spells no command (R85), or a payload does not belong to it (R77). -/
inductive Reject where
  /-- `OP` is not in the table of R74 (R85, R87) -/
  | unknownOpcode
  /-- an unused or reserved bit is not 0 (R79, R85) -/
  | unusedBits
  /-- the payload does not have the length the word calls for (R77) -/
  | payloadLength
  /-- fewer than eight bytes, or a payload cut short, in a serialized command (R77, R78) -/
  | truncated
deriving DecidableEq, Repr

/-- `OP`, bits `[7:0]` (R71). -/
def opField (w : CommandWord) : Byte := w.extractLsb' 0 8

/-- `F`, bit `[8]`, read as a boolean (R71, R75). -/
def fField (w : CommandWord) : Bool := w.getLsbD 8

/-- `S`, bit `[9]`: 0 selects `tx` and 1 selects `rx` (R71, R75). -/
def sField (w : CommandWord) : BufSel := if w.getLsbD 9 then .rx else .tx

/-- `A`, bits `[23:16]` (R71). -/
def aField (w : CommandWord) : Byte := w.extractLsb' 16 8

/-- `W`, bits `[63:32]` (R71). -/
def wField (w : CommandWord) : Word := w.extractLsb' 32 32

/-- The `OP` value of each row (R74). -/
def Opcode.op : Opcode → Byte
  | .beginMaster => 0x01
  | .beginSlave => 0x02
  | .setClock => 0x03
  | .endBus => 0x04
  | .beginTransmission => 0x10
  | .writeByte => 0x11
  | .writeBytes => 0x12
  | .endTransmission => 0x13
  | .requestFrom => 0x14
  | .available => 0x15
  | .read => 0x16
  | .peek => 0x17
  | .onReceive => 0x20
  | .onRequest => 0x21
  | .service => 0x30
  | .bufStore => 0x40
  | .bufRead => 0x41
  | .bufPeek => 0x42
  | .bufAvailable => 0x43
  | .bufIsFull => 0x44
  | .bufClear => 0x45

/-- The rows of the opcode map, in the table's order (R74). -/
def Opcode.all : List Opcode :=
  [.beginMaster, .beginSlave, .setClock, .endBus, .beginTransmission, .writeByte, .writeBytes,
   .endTransmission, .requestFrom, .available, .read, .peek, .onReceive, .onRequest, .service, .bufStore,
   .bufRead, .bufPeek, .bufAvailable, .bufIsFull, .bufClear]

/-- The row that an `OP` value names; every value outside the table is reserved (R74, R87). -/
def Opcode.ofByte (b : Byte) : Option Opcode := Opcode.all.find? (fun o => o.op == b)

/-- The row's `mask` (R79, spec/opcode_table.json). -/
def Opcode.mask : Opcode → CommandWord
  | .beginMaster => 0xFFFFFFFFFFFFFFFF
  | .beginSlave => 0xFFFFFFFFFF00FEFF
  | .setClock => 0x00000000FFFFFFFF
  | .endBus => 0xFFFFFFFFFFFFFFFF
  | .beginTransmission => 0xFFFFFFFFFF00FFFF
  | .writeByte => 0xFFFFFFFFFF00FFFF
  | .writeBytes => 0x00000000FFFFFFFF
  | .endTransmission => 0xFFFFFFFFFFFFFEFF
  | .requestFrom => 0x00000000FF00FEFF
  | .available => 0xFFFFFFFFFFFFFFFF
  | .read => 0xFFFFFFFFFFFFFFFF
  | .peek => 0xFFFFFFFFFFFFFFFF
  | .onReceive => 0x00000000FFFFFEFF
  | .onRequest => 0x00000000FFFFFEFF
  | .service => 0xFFFFFFFFFFFFFFFF
  | .bufStore => 0xFFFFFFFFFF00FDFF
  | .bufRead => 0xFFFFFFFFFFFFFDFF
  | .bufPeek => 0xFFFFFFFFFFFFFDFF
  | .bufAvailable => 0xFFFFFFFFFFFFFDFF
  | .bufIsFull => 0xFFFFFFFFFFFFFDFF
  | .bufClear => 0xFFFFFFFFFFFFFDFF

/-- The row's `match` (R79, spec/opcode_table.json). -/
def Opcode.pattern : Opcode → CommandWord
  | .beginMaster => 0x0000000000000001
  | .beginSlave => 0x0000000000000002
  | .setClock => 0x0000000000000003
  | .endBus => 0x0000000000000004
  | .beginTransmission => 0x0000000000000010
  | .writeByte => 0x0000000000000011
  | .writeBytes => 0x0000000000000012
  | .endTransmission => 0x0000000000000013
  | .requestFrom => 0x0000000000000014
  | .available => 0x0000000000000015
  | .read => 0x0000000000000016
  | .peek => 0x0000000000000017
  | .onReceive => 0x0000000000000020
  | .onRequest => 0x0000000000000021
  | .service => 0x0000000000000030
  | .bufStore => 0x0000000000000040
  | .bufRead => 0x0000000000000041
  | .bufPeek => 0x0000000000000042
  | .bufAvailable => 0x0000000000000043
  | .bufIsFull => 0x0000000000000044
  | .bufClear => 0x0000000000000045

/-- The class of each opcode (R73, R74). -/
def Opcode.cmdClass : Opcode → CmdClass
  | .beginMaster => .host
  | .beginSlave => .host
  | .setClock => .host
  | .endBus => .host
  | .beginTransmission => .host
  | .writeByte => .host
  | .writeBytes => .host
  | .endTransmission => .host
  | .requestFrom => .host
  | .available => .host
  | .read => .host
  | .peek => .host
  | .onReceive => .host
  | .onRequest => .host
  | .service => .event
  | .bufStore => .internal
  | .bufRead => .internal
  | .bufPeek => .internal
  | .bufAvailable => .internal
  | .bufIsFull => .internal
  | .bufClear => .internal

/-- The row a command belongs to (R74). -/
def Instr.opcode : Instr → Opcode
  | .beginMaster => .beginMaster
  | .beginSlave _ _ => .beginSlave
  | .setClock _ => .setClock
  | .endBus => .endBus
  | .beginTransmission _ => .beginTransmission
  | .writeByte _ => .writeByte
  | .writeBytes _ _ => .writeBytes
  | .endTransmission _ => .endTransmission
  | .requestFrom _ _ _ => .requestFrom
  | .available => .available
  | .read => .read
  | .peek => .peek
  | .onReceive _ _ => .onReceive
  | .onRequest _ _ => .onRequest
  | .service => .service
  | .bufStore _ _ => .bufStore
  | .bufRead _ => .bufRead
  | .bufPeek _ => .bufPeek
  | .bufAvailable _ => .bufAvailable
  | .bufIsFull _ => .bufIsFull
  | .bufClear _ => .bufClear

/-- How many payload bytes follow a word of this row: `W` for WRITE_BYTES, none for every other (R77). -/
def Opcode.payloadLength (o : Opcode) (w : CommandWord) : Nat :=
  match o with
  | .writeBytes => (wField w).toNat
  | _ => 0

/-- R79: a word selects a row exactly when `w & mask == match`; `OP` is inside every row's mask, so it names the only
candidate. -/
def decodeOpcode (w : CommandWord) : Except Reject Opcode :=
  match Opcode.ofByte (opField w) with
  | none => .error .unknownOpcode
  | some o => if w &&& o.mask = o.pattern then .ok o else .error .unusedBits

/-- The command of a row with the operands of the word's fields (R75, R76). -/
def buildInstr (o : Opcode) (w : CommandWord) (payload : List Byte) : Instr :=
  match o with
  | .beginMaster => .beginMaster
  | .beginSlave => .beginSlave (aField w) (fField w)
  | .setClock => .setClock (wField w)
  | .endBus => .endBus
  | .beginTransmission => .beginTransmission (aField w)
  | .writeByte => .writeByte (aField w)
  | .writeBytes => .writeBytes (wField w) payload
  | .endTransmission => .endTransmission (fField w)
  | .requestFrom => .requestFrom (aField w) (wField w) (fField w)
  | .available => .available
  | .read => .read
  | .peek => .peek
  | .onReceive => .onReceive (fField w) (wField w)
  | .onRequest => .onRequest (fField w) (wField w)
  | .service => .service
  | .bufStore => .bufStore (sField w) (aField w)
  | .bufRead => .bufRead (sField w)
  | .bufPeek => .bufPeek (sField w)
  | .bufAvailable => .bufAvailable (sField w)
  | .bufIsFull => .bufIsFull (sField w)
  | .bufClear => .bufClear (sField w)

/-- The decoder: a command word, presented whole (R53, R71), and the payload presented with it (R77). -/
def decodeWord (w : CommandWord) (payload : List Byte) : Except Reject Instr :=
  match decodeOpcode w with
  | .error e => .error e
  | .ok o => if payload.length = o.payloadLength w then .ok (buildInstr o w payload) else .error .payloadLength

/-- A word of eight bytes, little-endian (R78): byte 0 holds bits `[7:0]`. -/
def wordOfBytes (b0 b1 b2 b3 b4 b5 b6 b7 : Byte) : CommandWord :=
  (b7 ++ (b6 ++ (b5 ++ (b4 ++ (b3 ++ (b2 ++ (b1 ++ b0))))))).cast rfl

/-- The eight bytes of a word, little-endian (R78). -/
def bytesOfWord (w : CommandWord) : List Byte :=
  [w.extractLsb' 0 8, w.extractLsb' 8 8, w.extractLsb' 16 8, w.extractLsb' 24 8,
   w.extractLsb' 32 8, w.extractLsb' 40 8, w.extractLsb' 48 8, w.extractLsb' 56 8]

/-- Decoding a serialized command from the front of a list of bytes (R77, R78): the command and the bytes after it. -/
def decodeBytes : List Byte → Except Reject (Instr × List Byte)
  | b0 :: b1 :: b2 :: b3 :: b4 :: b5 :: b6 :: b7 :: rest =>
    let w := wordOfBytes b0 b1 b2 b3 b4 b5 b6 b7
    match decodeOpcode w with
    | .error e => .error e
    | .ok o =>
      if o.payloadLength w ≤ rest.length then
        .ok (buildInstr o w (rest.take (o.payloadLength w)), rest.drop (o.payloadLength w))
      else .error .truncated
  | _ => .error .truncated

/-- A direction as a bit (R216): the value of the read/write bit of an I2C address byte. Nothing reads it: the calls pass
the direction itself. -/
def Direction.bit : Direction → Bool
  | .write => false
  | .read => true

/-- `S` as a bit (R75). -/
def BufSel.bit : BufSel → Bool
  | .tx => false
  | .rx => true

/-- The seven fields of the one format side by side, the most significant first (R71): `W`, reserved `[31:24]`, `A`,
reserved `[15:10]`, `S`, `F`, `OP`. -/
def layout (w : Word) (r31 : BitVec 8) (a : Byte) (r15 : BitVec 6) (s f : BitVec 1) (op : Byte) : CommandWord :=
  (w ++ (r31 ++ (a ++ (r15 ++ (s ++ (f ++ op)))))).cast rfl

/-- The command word with these fields and every reserved bit 0 (R71). -/
def packFields (op : Byte) (f : Bool) (s : BufSel) (a : Byte) (w : Word) : CommandWord :=
  layout w 0 a 0 (BitVec.ofBool s.bit) (BitVec.ofBool f) op

/-- The command word of a command (R71, R74, R76). -/
def encodeWord : Instr → CommandWord
  | .beginMaster => packFields 0x01 false .tx 0 0
  | .beginSlave address gc => packFields 0x02 gc .tx address 0
  | .setClock rate => packFields 0x03 false .tx 0 rate
  | .endBus => packFields 0x04 false .tx 0 0
  | .beginTransmission address => packFields 0x10 false .tx address 0
  | .writeByte value => packFields 0x11 false .tx value 0
  | .writeBytes count _ => packFields 0x12 false .tx 0 count
  | .endTransmission stopBit => packFields 0x13 stopBit .tx 0 0
  | .requestFrom address quantity stopBit => packFields 0x14 stopBit .tx address quantity
  | .available => packFields 0x15 false .tx 0 0
  | .read => packFields 0x16 false .tx 0 0
  | .peek => packFields 0x17 false .tx 0 0
  | .onReceive register handle => packFields 0x20 register .tx 0 handle
  | .onRequest register handle => packFields 0x21 register .tx 0 handle
  | .service => packFields 0x30 false .tx 0 0
  | .bufStore buf value => packFields 0x40 false buf value 0
  | .bufRead buf => packFields 0x41 false buf 0 0
  | .bufPeek buf => packFields 0x42 false buf 0 0
  | .bufAvailable buf => packFields 0x43 false buf 0 0
  | .bufIsFull buf => packFields 0x44 false buf 0 0
  | .bufClear buf => packFields 0x45 false buf 0 0

/-- The payload that follows a command's word (R77). -/
def Instr.payload : Instr → List Byte
  | .writeBytes _ payload => payload
  | _ => []

/-- A serialized command: its word in little-endian order, then its payload (R77, R78). -/
def encode (i : Instr) : List Byte := bytesOfWord (encodeWord i) ++ i.payload

/-- The payload of zeros that a bare word of the opcode table stands for: `W` zero bytes for WRITE_BYTES. -/
def zeroPayload (w : CommandWord) : List Byte :=
  match decodeOpcode w with
  | .error _ => []
  | .ok o => List.replicate (o.payloadLength w) 0

/-- The instruction the decoder reads from a word numbered as spec/opcode_table.json numbers it: bit 0 is the least
significant bit. The bits above `nbits` are 0, and so is every payload byte; the payload's length is right by its
construction, so it is not counted again. -/
def decodeTableWord (nbits w : Nat) : Option Instr :=
  let word := BitVec.ofNat 64 (w % 2 ^ nbits)
  match decodeOpcode word with
  | .error _ => none
  | .ok o => some (buildInstr o word (zeroPayload word))

/-! ## Call syntax and pseudo-commands (R88, R89) -/

/-- `endTransmission()`: the overload whose stop bit defaults to true (R89). -/
def endTransmissionDefault : Instr := .endTransmission true

/-- `requestFrom(address, quantity)`: the overload whose stop bit defaults to true (R89). -/
def requestFromDefault (address : Byte) (quantity : Word) : Instr := .requestFrom address quantity true

/-- `onReceive(none)`: the deregistration form (R76, R89). -/
def onReceiveNone : Instr := .onReceive false 0

/-- `onRequest(none)`: the deregistration form (R76, R89). -/
def onRequestNone : Instr := .onRequest false 0

/-- A number in decimal (R88 allows decimal and hexadecimal). -/
def spellNat (n : Nat) : String := toString n

/-- A boolean (R88). -/
def spellBool (b : Bool) : String := if b then "true" else "false"

/-- A callback operand: a handle, named `h` and its number, or `none` (R88). -/
def spellHandle (register : Bool) (handle : Word) : String := if register then "h" ++ spellNat handle.toNat else "none"

/-- A buffer operand (R88). -/
def spellBuf : BufSel → String
  | .tx => "tx"
  | .rx => "rx"

/-- A list of payload bytes (R88). -/
def spellBytes (l : List Byte) : String := "[" ++ String.intercalate ", " (l.map fun v => spellNat v.toNat) ++ "]"

/-- An operation's name with its operands in parentheses (R88). -/
def spellCall (name : String) (operands : List String) : String :=
  name ++ "(" ++ String.intercalate ", " operands ++ ")"

/-- A command written in the source's call syntax (R88). -/
def Instr.spelling : Instr → String
  | .beginMaster => spellCall "begin" []
  | .beginSlave address gc => spellCall "begin" [spellNat address.toNat, spellBool gc]
  | .setClock rate => spellCall "setClock" [spellNat rate.toNat]
  | .endBus => spellCall "end" []
  | .beginTransmission address => spellCall "beginTransmission" [spellNat address.toNat]
  | .writeByte value => spellCall "write" [spellNat value.toNat]
  | .writeBytes count payload => spellCall "write" [spellBytes payload, spellNat count.toNat]
  | .endTransmission stopBit => spellCall "endTransmission" [spellBool stopBit]
  | .requestFrom address quantity stopBit =>
    spellCall "requestFrom" [spellNat address.toNat, spellNat quantity.toNat, spellBool stopBit]
  | .available => spellCall "available" []
  | .read => spellCall "read" []
  | .peek => spellCall "peek" []
  | .onReceive register handle => spellCall "onReceive" [spellHandle register handle]
  | .onRequest register handle => spellCall "onRequest" [spellHandle register handle]
  | .service => spellCall "onService" []
  | .bufStore buf value => spellCall "buf.store" [spellBuf buf, spellNat value.toNat]
  | .bufRead buf => spellCall "buf.read" [spellBuf buf]
  | .bufPeek buf => spellCall "buf.peek" [spellBuf buf]
  | .bufAvailable buf => spellCall "buf.available" [spellBuf buf]
  | .bufIsFull buf => spellCall "buf.isFull" [spellBuf buf]
  | .bufClear buf => spellCall "buf.clear" [spellBuf buf]

end Sys2Proof
end

