-- ==== Sys2Proof/Machine/State.lean ====
section
/-! DEFINITION. The state of one block instance (spec/10_state.md R20 to R38), the reasons a step can stop, and the state
at creation (spec/70_reset_and_hazards.md R260). The block's own elements come first; after them stand the model's own
fields: what the agents around the block present and answer, held as plain data in the order it is used (log 4 to 8), and
the event history and results that R217 and R80 speak of. -/

namespace Sys2Proof.Machine

/-- One ByteRingBuffer (R100). `c` is the sequence the rules speak of, oldest byte first; `storage` holds the storage
bytes that R29 lists and `head` is the write cursor of R108. No operation reads `storage` or `head` but the store that
writes there (log 3). -/
structure Ring where
  c : List Byte
  storage : List Byte
  head : Nat
deriving DecidableEq, Repr

/-- A callback slot (R28): whether a callback is registered, and the handle that names it to the application agent. -/
structure HandlerSlot where
  registered : Bool
  handle : Word
deriving DecidableEq, Repr

/-- The error the sequencer has recorded so far: the local `err` of R33. -/
inductive SeqError where
  | none
  | addressNack
  | dataNack
deriving DecidableEq, Repr

/-- The sequencer step label `seq` (R32): `idle` and the labels of the pseudocode of 41_master.md and 42_slave.md R180.
Where one label of the spec holds several atomic actions (R56), the later ones have a name that begins with the label:
`e2Own`, `e2Read`, `e2Send` and `e2Clear` are the actions of `E2` after `Available(tx)`, `f3Store` and `f5Receive`,
`f5Store` those of `F3` and `F5`, `f7Stop` the stop of `F7`; `zClose` is `transmissionOpen <- false` after `BusReset`. -/
inductive Label where
  | idle
  | m0 | m1
  | s0 | s1
  | k0 | k1 | k2 | k3
  | n0
  | z0 | z1 | z2 | zClose
  | b0 | b1 | b2
  | w0 | w1
  | x0 | x1 | x2 | x3
  | e0 | e1 | e2 | e2Own | e2Read | e2Send | e2Clear | e4 | e5 | e6
  | f0 | f1 | f2 | f3 | f3Store | f4 | f4Own | f5 | f5Receive | f5Store | f6 | f7 | f7Stop | f8 | f9 | f10
deriving DecidableEq, Repr

/-- The sequencer context (R33): the command being executed (`none` is `IDLE`), the step label, the operands of the
command that R33 keeps under `op` (`rate`, `gc`, `value`, `count`), and the locals under their names (`timedOut` is `to`). A local that is
unset has the value `Ctx.idle` gives it, which no rule reads (log 9); `d` is unset until its first use (R129). `hung` is the
model's own: the call of the action at `seq` never returns, so the foreground agent is stuck there (R202, log 14). -/
structure Ctx where
  op : Option Opcode
  seq : Label
  rate : Word
  gc : Bool
  value : Byte
  count : Word
  addr : Byte
  stop : Bool
  q : Word
  n : Word
  err : SeqError
  ok : Bool
  own : Bool
  ownerLost : Bool
  early : Bool
  sampled : Bool
  ack : Bool
  timedOut : Bool
  t : Bool
  d : Option Bool
  b : Option Byte
  k : Word
  payload : List Byte
  hung : Bool
deriving DecidableEq, Repr

/-- No running command: `seq = IDLE`, locals unset (R29, R33). -/
def Ctx.idle : Ctx :=
  { op := none, seq := .idle, rate := 0, gc := false, value := 0, count := 0, addr := 0, stop := false, q := 0, n := 0,
    err := .none, ok := false, own := false, ownerLost := false, early := false, sampled := false, ack := false,
    timedOut := false, t := false, d := none, b := none, k := 0, payload := [], hung := false }

/-- What a call asks, with its arguments: a primitive operation of the bus peripheral (43_bus_peripheral.md), or a callback
(R186). -/
inductive Request where
  | configureAsMaster (rate : Word)
  | configureAsSlave (address : Byte) (generalCall : Bool)
  | enable
  | disable
  | startTransaction (address : Byte) (direction : Direction)
  | receiveByte
  | sendByte (value : Byte)
  | signalContinue
  | signalStop
  | issueBusStop
  | hasBusOwnership
  | hasTimedOut
  | isSlaveMode
  | isAddressMatched
  | isStopSignaled
  | isRestartSignaled
  | isPeerRequestingRead
  | isByteReady
  | acknowledgeEvent
  | callbackOnReceive (handle : Word) (count : Word)
  | callbackOnRequest (handle : Word)
deriving DecidableEq, Repr

/-- One entry of the event history (R217): a primitive call on the bus peripheral with its arguments and its answer
(43_bus_peripheral.md), the hand-over to a callback (R186), or a primitive call that never returns and so has no answer
(R202). -/
inductive Call where
  | configureAsMaster (rate : Word)
  | configureAsSlave (address : Byte) (generalCall : Bool)
  | enable
  | disable
  | startTransaction (address : Byte) (direction : Direction) (answer : Bool)
  | receiveByte (answer : Byte)
  | sendByte (value : Byte) (answer : Bool)
  | signalContinue
  | signalStop
  | issueBusStop
  | hasBusOwnership (answer : Bool)
  | hasTimedOut (answer : Bool)
  | isSlaveMode (answer : Bool)
  | isAddressMatched (answer : Bool)
  | isStopSignaled (answer : Bool)
  | isRestartSignaled (answer : Bool)
  | isPeerRequestingRead (answer : Bool)
  | isByteReady (answer : Bool)
  | acknowledgeEvent
  | callbackOnReceive (handle : Word) (count : Word)
  | callbackOnRequest (handle : Word)
  | unreturned (request : Request)
deriving DecidableEq, Repr

/-- One answer of the bus peripheral (R201): a call that answers a boolean takes `flag`, one that answers a byte takes
`byte`. -/
structure Draw where
  flag : Bool
  byte : Byte
deriving DecidableEq, Repr

/-- Where a command is presented and where its result goes: the host's command port, the peripheral's interrupt, a
buffer's own port (R73), or the application agent inside a callback (R186). -/
inductive Port where
  | host
  | event
  | buffer
  | application
deriving DecidableEq, Repr

/-- A command as it is presented: the command word (R71) and the payload that follows it (R77). -/
structure Command where
  word : CommandWord
  payload : List Byte
deriving DecidableEq, Repr

/-- A command with the port it is presented at. -/
structure Presented where
  port : Port
  command : Command
deriving DecidableEq, Repr

/-- What the application agent does in one callback (R186): the finite sequence of commands it presents, and whether the
callback then returns. -/
structure AppRun where
  commands : List Command
  returns : Bool
deriving DecidableEq, Repr

/-- A result word delivered to the agent at a port (R80). -/
structure Result where
  port : Port
  word : Word
deriving DecidableEq, Repr

/-- Why the machine stops with a fault: the stuck states of spec/93_implementation_defined.md section 2 in which neither
agent takes a further step, since the interrupt agent is stuck inside SERVICE and the foreground waits for it (R57). Each
holds the event history up to there. Both are safe: there is no step left to show. -/
inductive Fault where
  /-- a primitive call of the interrupt agent never returns (R202); raised by `State.call` in a SERVICE step. The same of
  the foreground agent is no fault: `advance` leaves that agent stuck, and the interrupt agent goes on. Safe. -/
  | peripheralNeverReturns (history : List Call)
  /-- a callback never returns, so SERVICE never ends and the foreground never runs again (R186); raised by `runApp`.
  Safe. -/
  | callbackNeverReturns (history : List Call)
deriving DecidableEq, Repr

/-- Why a command has no meaning (R14). Every refusal is safe: nothing can be proved of what follows. -/
inductive Refusal where
  /-- an arm of exec without a meaning, by its mnemonic; raised by no arm of this model. Safe. -/
  | notModelled (mnemonic : String)
  /-- the presented word spells no command, or its payload has another length than `W` (R77, R79, R85); raised by
  `step`, and by `appCommand` inside a callback. Safe. -/
  | reserved (why : Reject)
  /-- a command presented at a port that does not admit its class (R73, R86); raised by `step`. Safe. -/
  | wrongPort (port : Port)
  /-- a command that the application agent may not present inside a callback (R86, R186, R242); raised by `appCommand`.
  Safe. -/
  | notAdmittedInCallback
deriving DecidableEq, Repr

/-- The two kinds of stop a running command can meet. -/
inductive Stop where
  | fault (reason : Fault)
  | refusal (reason : Refusal)
deriving DecidableEq, Repr

/-- One block instance and the agents around it. -/
structure State where
  /-- the parameters of R9, the same for ever -/
  cfg : Config
  /-- the transmit buffer (R23) -/
  tx : Ring
  /-- the receive buffer (R24) -/
  rx : Ring
  /-- the peer address of the write transaction (R25) -/
  targetAddress : Byte
  /-- the one status flag (R26, R35) -/
  transmissionOpen : Bool
  /-- the last configured bus clock (R27) -/
  activeClockRate : Word
  /-- the `onReceive` slot (R28) -/
  onReceiveHandler : HandlerSlot
  /-- the `onRequest` slot (R28) -/
  onRequestHandler : HandlerSlot
  /-- the sequencer context (R33) -/
  ctx : Ctx
  /-- a SERVICE step is in progress (R36) -/
  inService : Bool
  /-- MODEL: the commands and events presented to the block and not yet taken, first one first (R72, R222) -/
  presented : List Presented
  /-- MODEL: for each next atomic action of the sequencer, how many SERVICE steps the peripheral raises just before it
  (R57); none once the list is used up -/
  schedule : List Nat
  /-- MODEL: the answers of the peripheral, and the draws `d` of R129, in the order they are asked for; free values once
  the list is used up -/
  answers : List Draw
  /-- MODEL: how many answers have been asked for: the index of the free values -/
  draws : Nat
  /-- MODEL: how many primitive calls return before each next one that never does (R202); with nothing listed every call
  returns, which is law L4 of R223 -/
  callsLeft : List Nat
  /-- MODEL: what the application agent does in each next callback (R186); nothing once the list is used up -/
  apps : List AppRun
  /-- MODEL: the event history (R217), oldest first -/
  trace : List Call
  /-- MODEL: the results delivered so far (R80), oldest first -/
  results : List Result
  /-- MODEL: the first stop the running command has met; `none` in every state between steps -/
  stop : Option Stop
deriving DecidableEq, Repr

/-- An empty buffer over unspecified storage bytes (R29, R109). -/
def Ring.atReset (sel : BufSel) : Ring :=
  { c := [], storage := (List.range Config.nCapAtReset).map (Config.storageAtReset sel), head := 0 }

/-- The block right after its creation (R29, R260), with nothing presented yet. -/
def State.reset : State :=
  { cfg := { nCap := Config.nCapAtReset, ownerUnsampled := .retained }
    tx := Ring.atReset .tx
    rx := Ring.atReset .rx
    targetAddress := Config.targetAddressAtReset
    transmissionOpen := false
    activeClockRate := Config.defaultClock
    onReceiveHandler := { registered := false, handle := 0 }
    onRequestHandler := { registered := false, handle := 0 }
    ctx := Ctx.idle
    inService := false
    presented := []
    schedule := []
    answers := []
    draws := 0
    callsLeft := []
    apps := []
    trace := []
    results := []
    stop := none }

end Sys2Proof.Machine
end

