-- ==== Sys2Proof/Machine/Operands.lean ====
section
/-! DEFINITION. Operand and result forms (spec/30_encoding.md R75, R80, R81): which buffer a selector names, the result
word of every kind of result, and the start of a command with its operands in the sequencer context. -/

namespace Sys2Proof.Machine

/-- The buffer a selector names (R75). -/
def State.buf (s : State) : BufSel → Ring
  | .tx => s.tx
  | .rx => s.rx

/-- Replace the buffer a selector names. -/
def State.setBuf (sel : BufSel) (r : Ring) (s : State) : State :=
  { s with
    tx := match sel with | .tx => r | .rx => s.tx
    rx := match sel with | .tx => s.rx | .rx => r }

/-- The empty sentinel of R81. -/
def emptySentinel : Word := 0xFFFFFFFF

/-- The result word of an optional byte: `zext_32(b)`, or the sentinel (R80, R81). -/
def byteResult : Option Byte → Word
  | some b => b.setWidth 32
  | none => emptySentinel

/-- The result word of a boolean: 1 or 0 (R80). -/
def boolResult (b : Bool) : Word := if b then 1 else 0

/-- The error codes of R231. -/
def errorCode : ErrorCode → Byte
  | .success => 0
  | .dataTooLong => 1
  | .addressNack => 2
  | .dataNack => 3
  | .timeout => 4
  | .other => 5

/-- The result word of an error code: `zext_32(code)` (R80, R231). -/
def codeResult (e : ErrorCode) : Word := (errorCode e).setWidth 32

/-- The code END_TRANSMISSION returns for the recorded error (label `E6` of R128). -/
def seqErrorCode : SeqError → ErrorCode
  | .none => .success
  | .addressNack => .addressNack
  | .dataNack => .dataNack

/-- A command ends and its result goes to the agent that presented it (R80); the result is no block state (R35). -/
def State.deliver (p : Port) (w : Word) (s : State) : State := { s with results := s.results ++ [⟨p, w⟩] }

/-- A command starts: no stop has been met yet, and the context holds the command, its first label and its operands
(R32, R33). -/
def State.start (c : Ctx) (s : State) : State := { s with ctx := c, stop := none }

/-- The context at the first label of a command with no operand (R33). -/
def startCtx (o : Opcode) (l : Label) : Ctx := { Ctx.idle with op := some o, seq := l }

end Sys2Proof.Machine
end

