-- ==== Sys2Proof/Machine/Ops.lean ====
section
/-! DEFINITION. The named operations every meaning is built from: the six buffer operations (spec/40_ring_buffer.md), the
calls of the bus peripheral (spec/43_bus_peripheral.md), the entry and the return of the interrupt agent
(spec/60_exceptions.md R239, R241; the block has no other exception, R230), and how a stop ends a command. -/

namespace Sys2Proof.Machine

/-! ## Buffer operations -/

/-- `Store(B, v)` (R101): nothing happens to a full buffer; otherwise the byte goes behind the newest one. The storage
byte at the write cursor is written before the cursor moves (R60, R108). -/
def Ring.store (nCap : Nat) (v : Byte) (r : Ring) : Bool × Ring :=
  if r.c.length = nCap then (false, r)
  else (true, { c := r.c ++ [v], storage := r.storage.set r.head v, head := (r.head + 1) % nCap })

/-- `Read(B)` (R102): the oldest byte, removed; `none` from an empty buffer, which stays as it is. -/
def Ring.read (r : Ring) : Option Byte × Ring := (r.c.head?, { r with c := r.c.tail })

/-- `Peek(B)` (R103): the oldest byte, not removed. -/
def Ring.peek (r : Ring) : Option Byte := r.c.head?

/-- `Available(B)` (R104), as 32 bits. -/
def Ring.available (r : Ring) : Word := BitVec.ofNat 32 r.c.length

/-- `IsFull(B)` (R105). -/
def Ring.isFull (nCap : Nat) (r : Ring) : Bool := r.c.length == nCap

/-- `Clear(B)` (R106): the storage bytes stay ("without freeing storage"). -/
def Ring.clear (r : Ring) : Ring := { r with c := [] }

/-- The canonical form of a buffer of capacity `nCap` (R100, R108): its length is within the capacity, there are `nCap`
storage bytes, the write cursor is the place of one of them, and byte `i` of the sequence stands at `(tail + i) mod nCap`,
where `tail` is as many places behind `head`, cyclically, as the buffer holds bytes. -/
def Ring.wf (nCap : Nat) (r : Ring) : Prop :=
  r.c.length ≤ nCap ∧ r.storage.length = nCap ∧ r.head < nCap
    ∧ ∀ i, i < r.c.length → r.storage[(r.head + nCap - r.c.length + i) % nCap]? = r.c[i]?

/-- Both buffers are well-formed. -/
def State.ringsWf (s : State) : Prop := s.tx.wf s.cfg.nCap ∧ s.rx.wf s.cfg.nCap

/-- `Store` on a buffer of the block. -/
def State.storeByte (sel : BufSel) (v : Byte) (s : State) : Bool × State :=
  (((s.buf sel).store s.cfg.nCap v).1, s.setBuf sel ((s.buf sel).store s.cfg.nCap v).2)

/-- `Read` on a buffer of the block. -/
def State.readByte (sel : BufSel) (s : State) : Option Byte × State :=
  ((s.buf sel).read.1, s.setBuf sel (s.buf sel).read.2)

/-- `Clear` on a buffer of the block. -/
def State.clearBuf (sel : BufSel) (s : State) : State := s.setBuf sel (s.buf sel).clear

/-! ## Calls of the bus peripheral -/

/-- The running command meets a stop; the first one it meets counts. -/
def State.raiseStop (x : Stop) (s : State) : State :=
  { s with stop := match s.stop with | none => some x | some y => some y }

/-- One more entry of the event history (R217). -/
def State.record (c : Call) (s : State) : State := { s with trace := s.trace ++ [c] }

/-- What a call asks. -/
def Call.request : Call → Request
  | .configureAsMaster rate => .configureAsMaster rate
  | .configureAsSlave address gc => .configureAsSlave address gc
  | .enable => .enable
  | .disable => .disable
  | .startTransaction address direction _ => .startTransaction address direction
  | .receiveByte _ => .receiveByte
  | .sendByte v _ => .sendByte v
  | .signalContinue => .signalContinue
  | .signalStop => .signalStop
  | .issueBusStop => .issueBusStop
  | .hasBusOwnership _ => .hasBusOwnership
  | .hasTimedOut _ => .hasTimedOut
  | .isSlaveMode _ => .isSlaveMode
  | .isAddressMatched _ => .isAddressMatched
  | .isStopSignaled _ => .isStopSignaled
  | .isRestartSignaled _ => .isRestartSignaled
  | .isPeerRequestingRead _ => .isPeerRequestingRead
  | .isByteReady _ => .isByteReady
  | .acknowledgeEvent => .acknowledgeEvent
  | .callbackOnReceive handle count => .callbackOnReceive handle count
  | .callbackOnRequest handle => .callbackOnRequest handle
  | .unreturned r => r

/-- The next primitive call never returns (R202). -/
def State.nextCallHangs (s : State) : Bool := s.callsLeft.head? == some 0

/-- The entry a primitive call leaves in the event history: one that never returns has no answer (R202, R217). -/
def State.entry (c : Call) (s : State) : Call := if s.nextCallHangs then .unreturned c.request else c

/-- One primitive call counted off. -/
def spendCall : List Nat → List Nat
  | [] => []
  | 0 :: rest => rest
  | (n + 1) :: rest => n :: rest

/-- One primitive call (R13, R202): it is recorded, and if it never returns the agent that made it meets a stop. -/
def State.call (c : Call) (s : State) : State :=
  { s with
    trace := s.trace ++ [s.entry c]
    callsLeft := spendCall s.callsLeft
    stop :=
      if s.stop.isNone && s.nextCallHangs then some (.fault (.peripheralNeverReturns (s.trace ++ [s.entry c]))) else s.stop }

/-- The next answer of the peripheral (R201): the next one of the state's list, or a free value (log 5). -/
def State.nextDraw (s : State) : Draw :=
  match s.answers with
  | d :: _ => d
  | [] => { flag := Config.freeFlag s.draws, byte := Config.freeByte s.draws }

/-- The state once the next answer is taken. -/
def State.dropDraw (s : State) : State := { s with answers := s.answers.tail, draws := s.draws + 1 }

/-- A primitive call that answers a boolean. -/
def State.askFlag (c : Bool → Call) (s : State) : Bool × State := (s.nextDraw.flag, s.dropDraw.call (c s.nextDraw.flag))

/-- A primitive call that answers a byte. -/
def State.askByte (c : Byte → Call) (s : State) : Byte × State := (s.nextDraw.byte, s.dropDraw.call (c s.nextDraw.byte))

/-! ## The interrupt agent's entry and return -/

/-- Entry of SERVICE at `V0` (R239): nothing is saved and no mode changes; `inService` is set. -/
def State.enterService (s : State) : State := { s with inService := true }

/-- The return at `V9` (R241): `inService` is cleared, nothing is restored, and the result 0 is delivered (R80). -/
def State.leaveService (s : State) : State := { s.deliver .event 0 with inService := false }

/-! ## The sequencer's moves and a command's end -/

/-- `seq <- l` (R32). -/
def State.goto (l : Label) (s : State) : State := { s with ctx := { s.ctx with seq := l } }

/-- `return v` of a host command (R14, R32): the result goes to the host and the context is discarded (R33). -/
def State.returnHost (v : Word) (s : State) : State := { s.deliver .host v with ctx := Ctx.idle }

end Sys2Proof.Machine
end

