-- ==== Sys2Proof/Machine/Flags.lean ====
section
/-! DEFINITION. The block's one status flag, `transmissionOpen` (spec/10_state.md R26, R35), and the ownership test
`OwnerOk()` (spec/41_master.md R129). There are no condition codes. -/

namespace Sys2Proof.Machine

/-- `transmissionOpen <- b` (R26). -/
def State.setOpen (b : Bool) (s : State) : State := { s with transmissionOpen := b }

/-- `OwnerOk()` (R129): the kept sample if ownership was sampled; otherwise what `OWNER_UNSAMPLED` says, where a drawn
value is drawn at its first use in the command and kept in the local `d`. -/
def State.ownerOk (s : State) : Bool × State :=
  if s.ctx.sampled then (!s.ctx.ownerLost, s)
  else
    match s.cfg.ownerUnsampled with
    | .retained => (true, s)
    | .draw =>
      match s.ctx.d with
      | some d => (d, s)
      | none =>
        (s.nextDraw.flag, { s.dropDraw with ctx := { s.ctx with d := some s.nextDraw.flag } })

end Sys2Proof.Machine
end

