-- ==== Sys2Proof/Machine/Port.lean ====
section
/-! DEFINITION. What the host, the buffer port and the application agent reach in one atomic action: the commands a
callback may present (spec/42_slave.md R186), each run with no interleaving of the foreground, and the classes a port
admits (spec/30_encoding.md R73, R86). -/

namespace Sys2Proof.Machine

/-- `write(byte)` with nothing between its test and its store (R126). -/
def writeByteNow (v : Byte) (s : State) : State × Word :=
  if s.transmissionOpen then ((s.storeByte .tx v).2, boolResult (s.storeByte .tx v).1) else (s, 0)

/-- `write(bytes, count)` with nothing between its stores, `k` bytes being accepted already (R127). -/
def writeBytesNow : List Byte → Word → State → State × Word
  | [], k, s => (s, k)
  | v :: rest, k, s =>
    if s.transmissionOpen then
      if (s.storeByte .tx v).1 then writeBytesNow rest (k + 1) (s.storeByte .tx v).2 else (s, k)
    else (s, k)

/-- `available()` (R150). -/
def availableNow (s : State) : State × Word := (s, s.rx.available)

/-- `read()` (R151). -/
def readNow (s : State) : State × Word := ((s.readByte .rx).2, byteResult (s.readByte .rx).1)

/-- `peek()` (R152). -/
def peekNow (s : State) : State × Word := (s, byteResult s.rx.peek)

/-- The commands a callback may present, each with its meaning there; every other one is refused (R86, R186). -/
def appMeaning (i : Instr) : Option (State → State × Word) :=
  match i with
  | .writeByte v => some (writeByteNow v)
  | .writeBytes _ payload => some (writeBytesNow payload 0)
  | .available => some availableNow
  | .read => some readNow
  | .peek => some peekNow
  | .beginMaster | .beginSlave _ _ | .setClock _ | .endBus | .beginTransmission _ | .endTransmission _
  | .requestFrom _ _ _ | .onReceive _ _ | .onRequest _ _ | .service | .bufStore _ _ | .bufRead _ | .bufPeek _
  | .bufAvailable _ | .bufIsFull _ | .bufClear _ => none

/-- One command that the application agent presents inside a callback (R186, R242). -/
def appCommand (s : State) (c : Command) : State :=
  match decodeWord c.word c.payload with
  | .error e => s.raiseStop (.refusal (.reserved e))
  | .ok i =>
    match appMeaning i with
    | none => s.raiseStop (.refusal .notAdmittedInCallback)
    | some f => (f s).1.deliver .application (f s).2

/-- A command that `appCommand` runs. -/
def Command.admitted (c : Command) : Bool :=
  match decodeWord c.word c.payload with
  | .error _ => false
  | .ok i => (appMeaning i).isSome

/-- What the application agent does in one callback: its commands in order, then the return, or a hang (R186). -/
def runApp (r : AppRun) (s : State) : State :=
  let s := r.commands.foldl appCommand s
  if r.returns then s else s.raiseStop (.fault (.callbackNeverReturns s.trace))

/-- `CALLBACK name(handle, args)` (R186): the hand-over stands in the event history, then the application agent runs. -/
def State.callback (c : Call) (s : State) : State :=
  match s.apps with
  | [] => s.record c
  | r :: rest => runApp r { s.record c with apps := rest }

/-- The class of command a port admits (R73, R86). Commands inside a callback do not come through `step`. -/
def Port.admits : Port → CmdClass → Bool
  | .host, .host => true
  | .event, .event => true
  | .buffer, .internal => true
  | _, _ => false

/-- Nothing in the state's lists can stop a command: every primitive call returns (law L4 of R223), and every callback
presents only admitted commands and returns (R186, R278). -/
def State.wellBehaved (s : State) : Bool :=
  s.stop.isNone && s.callsLeft.isEmpty && s.apps.all (fun r => r.returns && r.commands.all Command.admitted)

/-- How a command's run ends. In a well-behaved state no stop can be met (`Laws.outcome_eq`), so the answer there is a
next state; otherwise the first stop the command met is the answer. -/
def outcome (before after : State) : Host.Outcome State Fault Refusal :=
  if before.wellBehaved then .next after
  else
    match after.stop with
    | none => .next after
    | some (.fault f) => .fault f
    | some (.refusal r) => .refused r

end Sys2Proof.Machine
end

