-- ==== Sys2Proof/Machine/Buffer.lean ====
section
/-! DEFINITION. The internal buffer commands, presented on a buffer's own port (spec/30_encoding.md R73): BUF_STORE,
BUF_READ, BUF_PEEK, BUF_AVAILABLE, BUF_ISFULL, BUF_CLEAR (spec/40_ring_buffer.md R101 to R106). Each is one atomic action
and never waits (R107). -/

namespace Sys2Proof.Machine

/-- BUF_STORE (R101): 1 when the byte was stored and 0 when the buffer was full. -/
def execBufStore (sel : BufSel) (value : Byte) (s : State) : Host.Outcome State Fault Refusal :=
  .next ((s.storeByte sel value).2.deliver .buffer (boolResult (s.storeByte sel value).1))

/-- BUF_READ (R102). -/
def execBufRead (sel : BufSel) (s : State) : Host.Outcome State Fault Refusal :=
  .next ((s.readByte sel).2.deliver .buffer (byteResult (s.readByte sel).1))

/-- BUF_PEEK (R103). -/
def execBufPeek (sel : BufSel) (s : State) : Host.Outcome State Fault Refusal :=
  .next (s.deliver .buffer (byteResult (s.buf sel).peek))

/-- BUF_AVAILABLE (R104). -/
def execBufAvailable (sel : BufSel) (s : State) : Host.Outcome State Fault Refusal :=
  .next (s.deliver .buffer (s.buf sel).available)

/-- BUF_ISFULL (R105). -/
def execBufIsFull (sel : BufSel) (s : State) : Host.Outcome State Fault Refusal :=
  .next (s.deliver .buffer (boolResult ((s.buf sel).isFull s.cfg.nCap)))

/-- BUF_CLEAR (R106). -/
def execBufClear (sel : BufSel) (s : State) : Host.Outcome State Fault Refusal :=
  .next ((s.clearBuf sel).deliver .buffer 0)

end Sys2Proof.Machine
end

