-- ==== Sys2Proof/Machine/Callbacks.lean ====
section
/-! DEFINITION. The registration of callbacks: ON_RECEIVE and ON_REQUEST (spec/42_slave.md R181, R182), each one atomic
action. -/

namespace Sys2Proof.Machine

/-- The slot a registration leaves (R181, R182): the handle, or 0 where the callback is removed. -/
def slotOf (register : Bool) (handle : Word) : HandlerSlot :=
  { registered := register, handle := if register then handle else 0 }

/-- ON_RECEIVE (R181). -/
def execOnReceive (register : Bool) (handle : Word) (s : State) : Host.Outcome State Fault Refusal :=
  .next ({ s with onReceiveHandler := slotOf register handle }.deliver .host 0)

/-- ON_REQUEST (R182). -/
def execOnRequest (register : Bool) (handle : Word) (s : State) : Host.Outcome State Fault Refusal :=
  .next ({ s with onRequestHandler := slotOf register handle }.deliver .host 0)

end Sys2Proof.Machine
end

