-- ==== Sys2Proof/Machine/Service.lean ====
section
/-! DEFINITION. The slave event handler SERVICE (spec/42_slave.md R170 to R183): one atomic step of the interrupt agent. -/

namespace Sys2Proof.Machine

/-- The status snapshot read at `V1` (R172). -/
structure Snapshot where
  am : Bool
  sp : Bool
  rs : Bool
  rd : Bool
  dr : Bool
deriving DecidableEq, Repr

/-- `V1` (R172): the five predicates, each asked once, in the order of the pseudocode. -/
def readSnapshot (s : State) : Snapshot × State :=
  let am := s.askFlag .isAddressMatched
  let sp := am.2.askFlag .isStopSignaled
  let rs := sp.2.askFlag .isRestartSignaled
  let rd := rs.2.askFlag .isPeerRequestingRead
  let dr := rd.2.askFlag .isByteReady
  ({ am := am.1, sp := sp.1, rs := rs.1, rd := rd.1, dr := dr.1 }, dr.2)

/-- The condition of case 1 (R174): a stop, or a restart while addressed when the next operation is not a master-read. -/
def Snapshot.endsWriteSession (p : Snapshot) : Bool := p.sp || (p.am && p.rs && !p.rd)

/-- "Acknowledge the event at the protocol level" in cases 1 and 2 (R183). -/
def ackEvent (s : State) : State := (s.call .signalContinue).call .acknowledgeEvent

/-- Case 1 (R174): acknowledge, call `onReceive` with the number of buffered bytes if it is registered, clear `rx`. -/
def serviceStop (s : State) : State :=
  let s := ackEvent s
  let s := if s.onReceiveHandler.registered then s.callback (.callbackOnReceive s.onReceiveHandler.handle s.rx.available) else s
  s.clearBuf .rx

/-- Case 2 (R175): acknowledge; for a master-read clear `tx`, open it for writes, and call `onRequest` if registered. -/
def serviceAddress (rd : Bool) (s : State) : State :=
  let s := ackEvent s
  if rd then
    let s := (s.clearBuf .tx).setOpen true
    if s.onRequestHandler.registered then s.callback (.callbackOnRequest s.onRequestHandler.handle) else s
  else s

/-- The byte `FILL_BYTE` of R9 and R176. -/
def fillByte : Byte := 0xFF

/-- Case 3 with master-read (R176): hand over one byte, and let the peripheral's answer be `transmissionOpen`. -/
def serviceSupply (s : State) : State :=
  let r := s.readByte .tx
  let c := r.1.getD fillByte
  let a := r.2.askFlag (.sendByte c)
  a.2.setOpen a.1

/-- Case 3 with master-write (R177): reject a byte that `rx` has no room for, or take it; then acknowledge the event. -/
def serviceTake (s : State) : State :=
  let s :=
    if s.rx.isFull s.cfg.nCap then s.call .signalStop
    else
      let v := s.askByte .receiveByte
      (v.2.storeByte .rx v.1).2.call .signalContinue
  s.call .acknowledgeEvent

/-- `V2` to `V4`: exactly one case runs, or none, in the priority order of R173. -/
def serviceCases (p : Snapshot) (s : State) : State :=
  if p.endsWriteSession then serviceStop s
  else if p.am then serviceAddress p.rd s
  else if p.dr then (if p.rd then serviceSupply s else serviceTake s)
  else s

/-- One SERVICE step (R170): the mode gate (R171), the snapshot, one case. It does not start while another is in
progress (R240): the event stays pending in the peripheral. -/
def serviceStep (s : State) : State :=
  if s.inService then s
  else
    let m := s.enterService.askFlag .isSlaveMode
    (if m.1 then serviceCases (readSnapshot m.2).1 (readSnapshot m.2).2 else m.2).leaveService

/-- `n` SERVICE steps, one after the other. -/
def serviceSteps : Nat → State → State
  | 0, s => s
  | n + 1, s => serviceSteps n (serviceStep s)

/-- The SERVICE steps that fall just before the sequencer's next atomic action (R57). -/
def serviceSlot (s : State) : State :=
  match s.schedule with
  | [] => s
  | n :: rest => serviceSteps n { s with schedule := rest }

/-- SERVICE (R170), raised by the peripheral. -/
def execService (s : State) : Host.Outcome State Fault Refusal :=
  outcome { s with stop := none } (serviceStep { s with stop := none })

end Sys2Proof.Machine
end

