-- ==== Sys2Proof/Machine/Sequencer.lean ====
section
/-! DEFINITION. The master sequencer (spec/41_master.md): one definition for each step label, each one the atomic action
the pseudocode gives it with the tests on locals that go with it; `act` runs the action at the current label, and `run`
runs a command to its end with the SERVICE steps that fall between its actions (spec/20_memory.md R57). -/

namespace Sys2Proof.Machine

/-! ## BEGIN_MASTER (R121), BEGIN_SLAVE (R180), SET_CLOCK (R122), END (R123) -/

def actM0 (s : State) : State := (s.call (.configureAsMaster s.activeClockRate)).goto .m1
def actM1 (s : State) : State := (s.call .enable).returnHost 0

def actS0 (s : State) : State := (s.call (.configureAsSlave s.ctx.addr s.ctx.gc)).goto .s1
def actS1 (s : State) : State := (s.call .enable).returnHost 0

def actK0 (s : State) : State := { s with activeClockRate := s.ctx.rate }.goto .k1
def actK1 (s : State) : State := (s.call .disable).goto .k2
def actK2 (s : State) : State := (s.call (.configureAsMaster s.ctx.rate)).goto .k3
def actK3 (s : State) : State := (s.call .enable).returnHost 0

def actN0 (s : State) : State := (s.call .disable).returnHost 0

/-! ## BusReset (R124) and what follows it on a timeout (R131, R144, R145) -/

def actZ0 (s : State) : State := (s.call .disable).goto .z1
def actZ1 (s : State) : State := (s.call (.configureAsMaster s.activeClockRate)).goto .z2
def actZ2 (s : State) : State := (s.call .enable).goto .zClose

/-- What a command returns after a timeout: `Timeout` for END_TRANSMISSION, the count 0 for REQUEST_FROM. -/
def timeoutResult (op : Option Opcode) : Word :=
  if op = some .endTransmission then codeResult .timeout else 0

def actZClose (s : State) : State := (s.setOpen false).returnHost (timeoutResult s.ctx.op)

/-! ## BEGIN_TRANSMISSION (R125) -/

def actB0 (s : State) : State := { s with targetAddress := s.ctx.addr }.goto .b1
def actB1 (s : State) : State := (s.clearBuf .tx).goto .b2
def actB2 (s : State) : State := (s.setOpen true).returnHost 0

/-! ## WRITE_BYTE (R126) and WRITE_BYTES (R127) -/

def actW0 (s : State) : State := if s.transmissionOpen then s.goto .w1 else s.returnHost 0
def actW1 (s : State) : State := (s.storeByte .tx s.ctx.value).2.returnHost (boolResult (s.storeByte .tx s.ctx.value).1)

def actX0 (s : State) : State := { s with ctx := { s.ctx with k := 0, seq := .x1 } }
def actX1 (s : State) : State := if s.ctx.k = s.ctx.count then s.returnHost s.ctx.count else s.goto .x2
def actX2 (s : State) : State := if s.transmissionOpen then s.goto .x3 else s.returnHost s.ctx.k

/-- `payload[k]`; the payload of a well-formed command has a byte at every `k` below its count (R77). -/
def payloadByte (c : Ctx) : Byte := c.payload.getD c.k.toNat 0

def actX3 (s : State) : State :=
  let r := s.storeByte .tx (payloadByte s.ctx)
  if r.1 then { r.2 with ctx := { s.ctx with k := s.ctx.k + 1, seq := .x1 } } else r.2.returnHost s.ctx.k

/-! ## END_TRANSMISSION (R128 to R135) -/

def actE0 (s : State) : State :=
  { s with
    transmissionOpen := false
    ctx := { s.ctx with err := .none, ownerLost := false, sampled := false, seq := .e1 } }

def actE1 (s : State) : State :=
  let r := s.askFlag (.startTransaction s.targetAddress .write)
  if r.1 then { r.2 with ctx := { s.ctx with ok := true, seq := .e2 } }
  else { r.2 with ctx := { s.ctx with ok := false, err := .addressNack, seq := .e4 } }

/-- `k <- Available(tx)`, and the end of the loop when it is 0. -/
def actE2 (s : State) : State :=
  { s with ctx := { s.ctx with k := s.tx.available, seq := if s.tx.available = 0 then .e4 else .e2Own } }

def actE2Own (s : State) : State :=
  let r := s.askFlag .hasBusOwnership
  if r.1 then { r.2 with ctx := { s.ctx with own := true, sampled := true, seq := .e2Read } }
  else { r.2 with ctx := { s.ctx with own := false, sampled := true, ownerLost := true, seq := .e4 } }

/-- `b <- Read(tx)`; a byte that SERVICE has taken away ends the loop (R134). -/
def actE2Read (s : State) : State :=
  let r := s.readByte .tx
  { r.2 with ctx := { s.ctx with b := r.1, seq := if r.1.isNone then .e4 else .e2Send } }

def actE2Send (s : State) : State :=
  let r := s.askFlag (.sendByte (s.ctx.b.getD 0))
  if r.1 then { r.2 with ctx := { s.ctx with ack := true, seq := .e2 } }
  else { r.2 with ctx := { s.ctx with ack := false, err := .dataNack, seq := .e2Clear } }

def actE2Clear (s : State) : State := (s.clearBuf .tx).goto .e4

/-- The stop rule (R130): an error, or a requested stop while ownership is held. -/
def actE4 (s : State) : State :=
  if s.ctx.err ≠ .none then (s.call .issueBusStop).goto .e5
  else if s.ctx.stop then
    let o := s.ownerOk
    if o.1 then (o.2.call .issueBusStop).goto .e5 else o.2.goto .e5
  else s.goto .e5

/-- The timeout override (R131). -/
def actE5 (s : State) : State :=
  let r := s.askFlag .hasTimedOut
  { r.2 with ctx := { s.ctx with t := r.1, seq := if r.1 then .z0 else .e6 } }

def actE6 (s : State) : State := s.returnHost (codeResult (seqErrorCode s.ctx.err))

/-! ## REQUEST_FROM (R140 to R147) -/

def actF0 (s : State) : State := if s.ctx.q = 0 then s.returnHost 0 else s.goto .f1
def actF1 (s : State) : State := (s.clearBuf .rx).goto .f2

def actF2 (s : State) : State :=
  let r := s.askFlag (.startTransaction s.ctx.addr .read)
  { r.2 with ctx := { s.ctx with ok := r.1, seq := if r.1 then .f3 else .f10 } }

def actF3 (s : State) : State :=
  let r := s.askByte .receiveByte
  { r.2 with ctx := { s.ctx with b := some r.1, seq := .f3Store } }

/-- `Store(rx, b)`, whose result is ignored (R146), and the locals of the loop. -/
def actF3Store (s : State) : State :=
  let r := s.storeByte .rx (s.ctx.b.getD 0)
  { r.2 with ctx := { s.ctx with n := 1, ownerLost := false, early := false, sampled := false, seq := .f4 } }

/-- The loop condition's count and timeout (R141). -/
def actF4 (s : State) : State :=
  if s.ctx.n = s.ctx.q then s.goto .f6
  else
    let r := s.askFlag .hasTimedOut
    if r.1 then { r.2 with ctx := { s.ctx with timedOut := true, early := true, seq := .f6 } }
    else { r.2 with ctx := { s.ctx with timedOut := false, seq := .f4Own } }

/-- The loop condition's ownership (R141). -/
def actF4Own (s : State) : State :=
  let r := s.askFlag .hasBusOwnership
  if r.1 then { r.2 with ctx := { s.ctx with own := true, sampled := true, seq := .f5 } }
  else { r.2 with ctx := { s.ctx with own := false, sampled := true, ownerLost := true, early := true, seq := .f6 } }

def actF5 (s : State) : State := (s.call .signalContinue).goto .f5Receive

def actF5Receive (s : State) : State :=
  let r := s.askByte .receiveByte
  { r.2 with ctx := { s.ctx with b := some r.1, seq := .f5Store } }

def actF5Store (s : State) : State :=
  let r := s.storeByte .rx (s.ctx.b.getD 0)
  { r.2 with ctx := { s.ctx with n := s.ctx.n + 1, seq := .f4 } }

/-- The NACK, then the count adjustment (R142): one byte less after an early end or without ownership. -/
def actF6 (s : State) : State :=
  let s := s.call .signalStop
  if s.ctx.early then { s with ctx := { s.ctx with n := s.ctx.n - 1, seq := .f7 } }
  else
    let o := s.ownerOk
    if o.1 then o.2.goto .f7 else { o.2 with ctx := { o.2.ctx with n := o.2.ctx.n - 1, seq := .f7 } }

/-- The one timeout query after the loop (R144). -/
def actF7 (s : State) : State :=
  let r := s.askFlag .hasTimedOut
  { r.2 with ctx := { s.ctx with t := r.1, seq := .f7Stop } }

/-- The stop rule (R143): a timeout, or a requested stop while ownership is held. -/
def actF7Stop (s : State) : State :=
  if s.ctx.t then (s.call .issueBusStop).goto .f8
  else if s.ctx.stop then
    let o := s.ownerOk
    if o.1 then (o.2.call .issueBusStop).goto .f8 else o.2.goto .f8
  else s.goto .f8

def actF8 (s : State) : State := s.goto (if s.ctx.t then .z0 else .f9)
def actF9 (s : State) : State := s.returnHost s.ctx.n

/-- The start was not acknowledged (R145): one timeout query, no stop. -/
def actF10 (s : State) : State :=
  let r := s.askFlag .hasTimedOut
  if r.1 then { r.2 with ctx := { s.ctx with t := true, seq := .z0 } } else r.2.returnHost 0

/-! ## One action, and a command's run -/

/-- The atomic action at the current step label (R32, R56). -/
def act (s : State) : State :=
  match s.ctx.seq with
  | .idle => s
  | .m0 => actM0 s
  | .m1 => actM1 s
  | .s0 => actS0 s
  | .s1 => actS1 s
  | .k0 => actK0 s
  | .k1 => actK1 s
  | .k2 => actK2 s
  | .k3 => actK3 s
  | .n0 => actN0 s
  | .z0 => actZ0 s
  | .z1 => actZ1 s
  | .z2 => actZ2 s
  | .zClose => actZClose s
  | .b0 => actB0 s
  | .b1 => actB1 s
  | .b2 => actB2 s
  | .w0 => actW0 s
  | .w1 => actW1 s
  | .x0 => actX0 s
  | .x1 => actX1 s
  | .x2 => actX2 s
  | .x3 => actX3 s
  | .e0 => actE0 s
  | .e1 => actE1 s
  | .e2 => actE2 s
  | .e2Own => actE2Own s
  | .e2Read => actE2Read s
  | .e2Send => actE2Send s
  | .e2Clear => actE2Clear s
  | .e4 => actE4 s
  | .e5 => actE5 s
  | .e6 => actE6 s
  | .f0 => actF0 s
  | .f1 => actF1 s
  | .f2 => actF2 s
  | .f3 => actF3 s
  | .f3Store => actF3Store s
  | .f4 => actF4 s
  | .f4Own => actF4Own s
  | .f5 => actF5 s
  | .f5Receive => actF5Receive s
  | .f5Store => actF5Store s
  | .f6 => actF6 s
  | .f7 => actF7 s
  | .f7Stop => actF7Stop s
  | .f8 => actF8 s
  | .f9 => actF9 s
  | .f10 => actF10 s

/-- The action at the current label made a call that never returns (R202): the action does not complete, nothing of it is
seen but the call, which `t` has recorded, and the foreground agent is stuck at it. -/
def State.hang (s t : State) : State :=
  { s with ctx := { s.ctx with hung := true }, trace := t.trace, callsLeft := t.callsLeft }

/-- The foreground agent's next atomic action. It takes none once a SERVICE step has met a stop, and a call of its own that
never returns leaves it stuck (R202). -/
def advance (s : State) : State :=
  if s.stop.isSome then s
  else if (act s).stop.isSome then s.hang (act s)
  else act s

/-- A command is running, is not stuck in a call, and has met no stop. -/
def State.running (s : State) : Bool := s.ctx.seq != .idle && !s.ctx.hung && s.stop.isNone

/-- At most this many atomic actions of the running command, each after the SERVICE steps that fall before it. -/
def run : Nat → State → State
  | 0, s => s
  | n + 1, s => if s.running then run n (advance (serviceSlot s)) else s

/-- More atomic actions than a command can take: each action uses up one entry of the schedule, and once that is empty
the command loops at most once for each byte in `tx`, each byte of its quantity or each byte of its count. -/
def commandFuel (s : State) : Nat :=
  s.schedule.length + 8 * (s.cfg.nCap + s.tx.c.length + s.ctx.q.toNat + s.ctx.count.toNat) + 32

/-- The running command runs to its end (R120), or to a call that never returns (R202). -/
def runCommand (s : State) : State := run (commandFuel s) s

/-- A host command from its first label to its return (R120), or to a call that never returns (R202). -/
def execFrom (c : Ctx) (s : State) : Host.Outcome State Fault Refusal := outcome (s.start c) (runCommand (s.start c))

end Sys2Proof.Machine
end

