-- ==== Sys2Proof/Machine/Configure.lean ====
section
/-! DEFINITION. The configuration commands: BEGIN_MASTER, SET_CLOCK, END (spec/41_master.md R121 to R123) and BEGIN_SLAVE
(spec/42_slave.md R180). -/

namespace Sys2Proof.Machine

/-- BEGIN_MASTER (R121): configure as master at the active clock rate, then enable. -/
def execBeginMaster (s : State) : Host.Outcome State Fault Refusal := execFrom (startCtx .beginMaster .m0) s

/-- BEGIN_SLAVE (R180): configure as slave, then enable. -/
def execBeginSlave (address : Byte) (generalCall : Bool) (s : State) : Host.Outcome State Fault Refusal :=
  execFrom { startCtx .beginSlave .s0 with addr := address, gc := generalCall } s

/-- SET_CLOCK (R122): keep the rate, then disable, configure as master at it, enable. -/
def execSetClock (rate : Word) (s : State) : Host.Outcome State Fault Refusal :=
  execFrom { startCtx .setClock .k0 with rate := rate } s

/-- END (R123): disable. -/
def execEnd (s : State) : Host.Outcome State Fault Refusal := execFrom (startCtx .endBus .n0) s

end Sys2Proof.Machine
end

