-- ==== Sys2Proof/Machine/Receive.lean ====
section
/-! DEFINITION. The read transaction REQUEST_FROM (spec/41_master.md R140 to R147) and the reading of `rx`: AVAILABLE,
READ, PEEK (R150 to R152), each of which is one atomic action. -/

namespace Sys2Proof.Machine

/-- REQUEST_FROM (R140): the read-transaction driver. -/
def execRequestFrom (address : Byte) (quantity : Word) (stopBit : Bool) (s : State) : Host.Outcome State Fault Refusal :=
  execFrom { startCtx .requestFrom .f0 with addr := address, q := quantity, stop := stopBit } s

/-- AVAILABLE (R150). -/
def execAvailable (s : State) : Host.Outcome State Fault Refusal :=
  .next ((availableNow s).1.deliver .host (availableNow s).2)

/-- READ (R151). -/
def execRead (s : State) : Host.Outcome State Fault Refusal := .next ((readNow s).1.deliver .host (readNow s).2)

/-- PEEK (R152). -/
def execPeek (s : State) : Host.Outcome State Fault Refusal := .next ((peekNow s).1.deliver .host (peekNow s).2)

end Sys2Proof.Machine
end

