-- ==== Sys2Proof/Machine/Write.lean ====
section
/-! DEFINITION. The write transaction: BEGIN_TRANSMISSION, WRITE_BYTE, WRITE_BYTES, END_TRANSMISSION
(spec/41_master.md R125 to R135). -/

namespace Sys2Proof.Machine

/-- BEGIN_TRANSMISSION (R125): keep the address, clear `tx`, open it. -/
def execBeginTransmission (address : Byte) (s : State) : Host.Outcome State Fault Refusal :=
  execFrom { startCtx .beginTransmission .b0 with addr := address } s

/-- WRITE_BYTE (R126): store one byte into an open `tx`. -/
def execWriteByte (value : Byte) (s : State) : Host.Outcome State Fault Refusal :=
  execFrom { startCtx .writeByte .w0 with value := value } s

/-- WRITE_BYTES (R127): store the payload's bytes one by one until one is not accepted. -/
def execWriteBytes (count : Word) (payload : List Byte) (s : State) : Host.Outcome State Fault Refusal :=
  execFrom { startCtx .writeBytes .x0 with count := count, payload := payload } s

/-- END_TRANSMISSION (R128): the write-transaction driver. -/
def execEndTransmission (stopBit : Bool) (s : State) : Host.Outcome State Fault Refusal :=
  execFrom { startCtx .endTransmission .e0 with stop := stopBit } s

end Sys2Proof.Machine
end

