-- ==== Sys2Proof/Machine/Dispatch.lean ====
section
/-! DEFINITION. The meaning of every command, one arm a constructor. -/

namespace Sys2Proof.Machine

def exec (i : Instr) (s : State) : Host.Outcome State Fault Refusal :=
  match i with
  | .beginMaster => Sys2Proof.Machine.execBeginMaster s
  | .beginSlave address generalCall => Sys2Proof.Machine.execBeginSlave address generalCall s
  | .setClock rate => Sys2Proof.Machine.execSetClock rate s
  | .endBus => Sys2Proof.Machine.execEnd s
  | .beginTransmission address => Sys2Proof.Machine.execBeginTransmission address s
  | .writeByte value => Sys2Proof.Machine.execWriteByte value s
  | .writeBytes count payload => Sys2Proof.Machine.execWriteBytes count payload s
  | .endTransmission stopBit => Sys2Proof.Machine.execEndTransmission stopBit s
  | .requestFrom address quantity stopBit => Sys2Proof.Machine.execRequestFrom address quantity stopBit s
  | .available => Sys2Proof.Machine.execAvailable s
  | .read => Sys2Proof.Machine.execRead s
  | .peek => Sys2Proof.Machine.execPeek s
  | .onReceive register handle => Sys2Proof.Machine.execOnReceive register handle s
  | .onRequest register handle => Sys2Proof.Machine.execOnRequest register handle s
  | .service => Sys2Proof.Machine.execService s
  | .bufStore buf value => Sys2Proof.Machine.execBufStore buf value s
  | .bufRead buf => Sys2Proof.Machine.execBufRead buf s
  | .bufPeek buf => Sys2Proof.Machine.execBufPeek buf s
  | .bufAvailable buf => Sys2Proof.Machine.execBufAvailable buf s
  | .bufIsFull buf => Sys2Proof.Machine.execBufIsFull buf s
  | .bufClear buf => Sys2Proof.Machine.execBufClear buf s

end Sys2Proof.Machine
end

