-- ==== Sys2Proof/Machine/Fetch.lean ====
section
/-! DEFINITION. Taking the next presented command (spec/30_encoding.md R72, R85, R86): decoding it and checking that its
port admits its class. -/

namespace Sys2Proof.Machine

/-- The command a presentation stands for, or the refusal it meets: a word that spells no command (R85), or a class the
port does not accept (R86). -/
def accept (p : Presented) : Except Refusal Instr :=
  match decodeWord p.command.word p.command.payload with
  | .error e => .error (.reserved e)
  | .ok i => if p.port.admits i.opcode.cmdClass then .ok i else .error (.wrongPort p.port)

/-- The foreground agent is stuck in a call that never returns (R202). -/
def State.stuck (s : State) : Bool := s.ctx.seq != .idle && s.ctx.hung

/-- The presentation that is taken next, and those that then remain. The host presents a command only when the previous
one has returned (R72), so while the foreground agent is stuck every command of the host waits; an event and a command at a
buffer's own port are taken all the same (R202, log 14). -/
def State.nextPresented (s : State) : Option (Presented × List Presented) :=
  if s.stuck then
    (s.presented.find? fun p => p.port != .host).map fun p => (p, s.presented.eraseP fun x => x.port != .host)
  else
    match s.presented with
    | [] => none
    | p :: rest => some (p, rest)

/-- The port at which commands of a class are presented (R73). -/
def portOf : CmdClass → Port
  | .host => .host
  | .event => .event
  | .internal => .buffer

/-- The presentation of a word of the opcode table at the port of its class, with a payload of zeros; a word that spells
no command is presented at the host port. -/
def presentWord (w : CommandWord) : Presented :=
  { port := match decodeOpcode w with | .ok o => portOf o.cmdClass | .error _ => .host
    command := { word := w, payload := zeroPayload w } }

end Sys2Proof.Machine
end

