-- ==== Sys2Proof/Machine/Step.lean ====
section
/-! DEFINITION. One step of the machine: the running command goes on, or the next presented command or event is taken and
run (spec/30_encoding.md R72). A block with nothing presented waits (spec/70_reset_and_hazards.md R263), and one whose
foreground agent is stuck takes only what is not the host's (spec/43_bus_peripheral.md R202). -/

namespace Sys2Proof.Machine

/-- One step. A command runs to its return within one step, with the SERVICE steps its state schedules between its atomic
actions; a state that holds a command in the middle goes on with it (R72: no other command is presented before it has
returned). The agent that is stuck in a call takes no further step (R202); the other one does. -/
def step (s : State) : Host.Outcome State Fault Refusal :=
  if s.ctx.seq ≠ .idle ∧ s.ctx.hung = false then outcome { s with stop := none } (runCommand { s with stop := none })
  else
    match s.nextPresented with
    | none => .next s
    | some (p, rest) =>
      match accept p with
      | .error r => .refused r
      | .ok i => exec i { s with presented := rest }

/-- The state in which the very next step takes and runs the instruction of a word of the opcode table: it is presented
first, at the port of its class, and no other command is running. -/
def State.withFetchWord (s : State) (nbits w : Nat) : State :=
  { s with
    ctx := Ctx.idle
    presented := presentWord (BitVec.ofNat 64 (w % 2 ^ nbits)) :: s.presented }

end Sys2Proof.Machine
end

