-- ==== Sys2Proof/Safety.lean ====
section
/-! DEFINITION. The terms in which claims speak: the invariant of the machine, runs that no SERVICE step disturbs, the
contract laws of spec/43_bus_peripheral.md R223 that a claim may name as a premise, what a list of calls shows, and the
concrete ring of spec/40_ring_buffer.md R108. -/

namespace Sys2Proof.Machine

/-! ## States -/

/-- R181, R182: a slot with no callback holds the handle 0. -/
def HandlerSlot.wf (h : HandlerSlot) : Prop := h.registered = false → h.handle = 0

/-- The invariant of the machine between steps: a legal capacity (R9), well-formed buffers (R100, R108), canonical handler
slots (R181, R182), no SERVICE step in progress (R36), no stop met, and an agent stuck only inside a command (R202). -/
structure State.Inv (s : State) : Prop where
  cfg : s.cfg.wf
  rings : s.ringsWf
  onReceive : s.onReceiveHandler.wf
  onRequest : s.onRequestHandler.wf
  inService : s.inService = false
  stop : s.stop = none
  hung : s.ctx.hung = true → s.ctx.seq ≠ .idle

/-- No SERVICE step falls between the atomic actions of the next command. -/
abbrev State.undisturbed (s : State) : Prop := s.schedule = []

/-- Law L4 of R223: every primitive call returns. -/
abbrev State.callsReturn (s : State) : Prop := s.callsLeft = []

/-- The peripheral's `i`-th next answer (R201), counted from 0: `s.answer 0` is the next one. -/
def State.answer (s : State) (i : Nat) : Draw :=
  match s.answers[i]? with
  | some d => d
  | none => { flag := Config.freeFlag (s.draws + i), byte := Config.freeByte (s.draws + i) }

/-- The peripheral's next six answers are: slave mode, and the snapshot `p` (R171, R172). -/
def State.reports (s : State) (p : Snapshot) : Prop :=
  (List.range 6).map (fun i => (s.answer i).flag) = [true, p.am, p.sp, p.rs, p.rd, p.dr]

/-- The six answers that report slave mode and the snapshot `p`. -/
def snapshotAnswers (p : Snapshot) : List Draw := [true, p.am, p.sp, p.rs, p.rd, p.dr].map fun b => ⟨b, 0⟩

/-- The state once `n` more answers of the peripheral are taken. -/
def State.asked (n : Nat) (s : State) : State := { s with answers := s.answers.drop n, draws := s.draws + n }

/-- A host command has ended: it made these calls in this order and delivered this result; nothing else is changed. -/
def State.ended (calls : List Call) (v : Word) (s : State) : State :=
  { s with trace := s.trace ++ calls, results := s.results ++ [⟨.host, v⟩], ctx := Ctx.idle, stop := none }

/-- A SERVICE event has ended: it made these calls in this order and delivered the result 0; nothing else is changed. -/
def State.served (calls : List Call) (s : State) : State :=
  { s with trace := s.trace ++ calls, results := s.results ++ [⟨.event, 0⟩], stop := none }

/-- The foreground agent has made the request `r` with the context `c`, and that call never returns (R202): the call stands
in the event history, `rest` says which later ones return, and nothing else is changed. -/
def State.stuckIn (r : Request) (rest : List Nat) (c : Ctx) (s : State) : State :=
  { s with trace := s.trace ++ [.unreturned r], callsLeft := rest, ctx := { c with hung := true }, stop := none }

/-- The result word delivered last, with its port. -/
def State.lastResult (s : State) : Option Result := s.results.getLast?

/-- Commands run one after the other, up to the first that stops. -/
def execAll : List Instr → State → Host.Outcome State Fault Refusal
  | [], s => .next s
  | i :: rest, s =>
    match exec i s with
    | .next t => execAll rest t
    | .fault f => .fault f
    | .refused r => .refused r

/-! ## Calls -/

/-- The predicate reads of one SERVICE step in slave mode (R170, labels `V0` and `V1`). -/
def snapshotCalls (p : Snapshot) : List Call :=
  [.isSlaveMode true, .isAddressMatched p.am, .isStopSignaled p.sp, .isRestartSignaled p.rs, .isPeerRequestingRead p.rd,
   .isByteReady p.dr]

/-- The calls of `BusReset` at a clock rate (R124). -/
def busResetCalls (rate : Word) : List Call := [.disable, .configureAsMaster rate, .enable]

/-- The bytes handed to `sendByte`, in order. -/
def sentBytes (calls : List Call) : List Byte :=
  calls.filterMap fun c => match c.request with | .sendByte v => some v | _ => none

/-- The bytes that `sendByte` acknowledged, in order. -/
def acknowledgedBytes (calls : List Call) : List Byte :=
  calls.filterMap fun c => match c with | .sendByte v true => some v | _ => none

/-- The bytes `receiveByte` answered, in order. -/
def receivedBytes (calls : List Call) : List Byte :=
  calls.filterMap fun c => match c with | .receiveByte v => some v | _ => none

/-- Some byte was not acknowledged (R128: `DataNack`). -/
def hasDataNack (calls : List Call) : Bool := calls.any fun c => match c with | .sendByte _ false => true | _ => false

/-- A start was not acknowledged (R128: `AddressNack`; R145). -/
def hasAddressNack (calls : List Call) : Bool :=
  calls.any fun c => match c with | .startTransaction _ _ false => true | _ => false

/-- Ownership was sampled and found lost (R129). -/
def lostOwnership (calls : List Call) : Bool := calls.any fun c => match c with | .hasBusOwnership false => true | _ => false

/-- Ownership was sampled (R129). -/
def sampledOwnership (calls : List Call) : Bool := calls.any fun c => match c with | .hasBusOwnership _ => true | _ => false

/-- The ownership that the stop rules read (R129), from what a command's calls sampled; `drawAt` is the place among the
command's answers of the value drawn where nothing was sampled and `OWNER_UNSAMPLED` is `draw`. -/
def ownerAfter (s : State) (calls : List Call) (drawAt : Nat) : Bool :=
  if sampledOwnership calls then !lostOwnership calls
  else
    match s.cfg.ownerUnsampled with
    | .retained => true
    | .draw => (s.answer drawAt).flag

/-- Some timeout query was answered true. -/
def sawTimeout (calls : List Call) : Bool := calls.any fun c => match c with | .hasTimedOut true => true | _ => false

/-- Whether a request configures, enables or disables the peripheral (R203 to R206). -/
def Request.isConfiguration : Request → Bool
  | .configureAsMaster _ | .configureAsSlave _ _ | .enable | .disable => true
  | .startTransaction _ _ | .receiveByte | .sendByte _ | .signalContinue | .signalStop | .issueBusStop | .hasBusOwnership
  | .hasTimedOut | .isSlaveMode | .isAddressMatched | .isStopSignaled | .isRestartSignaled | .isPeerRequestingRead
  | .isByteReady | .acknowledgeEvent | .callbackOnReceive _ _ | .callbackOnRequest _ => false

/-- The calls that configure, enable or disable the peripheral (R203 to R206), in order. -/
def configurationCalls (calls : List Call) : List Call :=
  calls.filter fun c => c.request.isConfiguration

/-- The configuration requests a command makes (R121 to R124, R180), where the active clock rate is `rate`: those of its
own pseudocode, and for the two transaction drivers none or those of one `BusReset`. -/
def mayConfigure (rate : Word) (i : Instr) (asked : List Request) : Prop :=
  match i with
  | .beginMaster => asked = [.configureAsMaster rate, .enable]
  | .beginSlave address gc => asked = [.configureAsSlave address gc, .enable]
  | .setClock r => asked = [.disable, .configureAsMaster r, .enable]
  | .endBus => asked = [.disable]
  | .endTransmission _ | .requestFrom _ _ _ => asked = [] ∨ asked = [.disable, .configureAsMaster rate, .enable]
  | .beginTransmission _ | .writeByte _ | .writeBytes _ _ | .available | .read | .peek | .onReceive _ _ | .onRequest _ _
  | .service | .bufStore _ _ | .bufRead _ | .bufPeek _ | .bufAvailable _ | .bufIsFull _ | .bufClear _ => asked = []

/-- How often a command may issue a bus stop condition (R212). -/
def mayIssueStops : Instr → Nat
  | .endTransmission _ | .requestFrom _ _ _ => 1
  | .beginMaster | .beginSlave _ _ | .setClock _ | .endBus | .beginTransmission _ | .writeByte _ | .writeBytes _ _
  | .available | .read | .peek | .onReceive _ _ | .onRequest _ _ | .service | .bufStore _ _ | .bufRead _ | .bufPeek _
  | .bufAvailable _ | .bufIsFull _ | .bufClear _ => 0

/-- The commands that the application agent may present inside a callback (R86). -/
def forCallbacks : Instr → Bool
  | .writeByte _ | .writeBytes _ _ | .available | .read | .peek => true
  | .beginMaster | .beginSlave _ _ | .setClock _ | .endBus | .beginTransmission _ | .endTransmission _ | .requestFrom _ _ _
  | .onReceive _ _ | .onRequest _ _ | .service | .bufStore _ _ | .bufRead _ | .bufPeek _ | .bufAvailable _ | .bufIsFull _
  | .bufClear _ => false

/-- The handler that a SERVICE step with the snapshot `p` calls a callback of, and whether it is registered (R174, R175). -/
def State.callsBack (s : State) (p : Snapshot) : Prop :=
  p.endsWriteSession = true ∧ s.onReceiveHandler.registered = true
    ∨ p.endsWriteSession = false ∧ p.am = true ∧ p.rd = true ∧ s.onRequestHandler.registered = true

/-- The hand-over to that callback (R174, R175). -/
def State.handOver (s : State) (p : Snapshot) : Call :=
  if p.endsWriteSession then .callbackOnReceive s.onReceiveHandler.handle s.rx.available
  else .callbackOnRequest s.onRequestHandler.handle

/-- The state after the commands that the application agent presents in its next callback, each run in order (R186). -/
def State.afterCallback (s : State) : State :=
  match s.apps with
  | [] => s
  | r :: _ => r.commands.foldl appCommand s

/-- The commands that take more than one atomic action of the foreground agent (R120, R126, R180). -/
def isMacro : Instr → Bool
  | .beginMaster | .beginSlave _ _ | .setClock _ | .endBus | .beginTransmission _ | .writeByte _ | .writeBytes _ _
  | .endTransmission _ | .requestFrom _ _ _ => true
  | .available | .read | .peek | .onReceive _ _ | .onRequest _ _ | .service | .bufStore _ _ | .bufRead _ | .bufPeek _
  | .bufAvailable _ | .bufIsFull _ | .bufClear _ => false

/-! ## The transaction drivers read as a whole

The pseudocode of R128 and R140 with no SERVICE step in it, written as what its loops do with a list of bytes and the
sequence of the peripheral's answers, without labels or locals. -/

/-- What a whole command does: its calls, its result, how many answers it took, the bytes its buffer then holds, and
whether it closes the transmission. -/
structure WholeRun where
  calls : List Call
  result : Word
  used : Nat
  bytes : List Byte
  closes : Bool
deriving DecidableEq, Repr

/-- What the byte loop of a transaction driver does: its calls, the bytes it leaves in `tx` or has received, how many
answers have been taken when it ends, and why it ended. -/
structure LoopRun where
  calls : List Call
  bytes : List Byte
  used : Nat
  ownerLost : Bool
  failed : Bool
deriving DecidableEq, Repr

/-- The loop `E2` of R128 over the bytes of `tx`; `failed` is a byte that was not acknowledged. -/
def sendLoop (answer : Nat → Draw) : List Byte → Nat → LoopRun
  | [], i => ⟨[], [], i, false, false⟩
  | b :: rest, i =>
    if (answer i).flag then
      if (answer (i + 1)).flag then
        let r := sendLoop answer rest (i + 2)
        { r with calls := .hasBusOwnership true :: .sendByte b true :: r.calls }
      else ⟨[.hasBusOwnership true, .sendByte b false], [], i + 2, false, true⟩
    else ⟨[.hasBusOwnership false], b :: rest, i + 1, true, false⟩

/-- The loop `F4`, `F5` of R140 for `m` more bytes; `failed` is a timeout seen in the loop. -/
def receiveLoop (answer : Nat → Draw) : Nat → Nat → LoopRun
  | 0, i => ⟨[], [], i, false, false⟩
  | m + 1, i =>
    if (answer i).flag then ⟨[.hasTimedOut true], [], i + 1, false, true⟩
    else if (answer (i + 1)).flag then
      let b := (answer (i + 2)).byte
      let r := receiveLoop answer m (i + 3)
      { r with
        calls := .hasTimedOut false :: .hasBusOwnership true :: .signalContinue :: .receiveByte b :: r.calls
        bytes := b :: r.bytes }
    else ⟨[.hasTimedOut false, .hasBusOwnership false], [], i + 2, true, false⟩

/-- A call made only under a condition. -/
def callIf (p : Bool) (c : Call) : List Call := if p then [c] else []

/-- END_TRANSMISSION as a whole (R128 to R133). -/
def sendWhole (stop : Bool) (s : State) : WholeRun :=
  let started := (s.answer 0).flag
  let loop : LoopRun := if started then sendLoop s.answer s.tx.c 1 else ⟨[], s.tx.c, 1, false, false⟩
  let sampled := sampledOwnership loop.calls
  let error := !started || loop.failed
  let drawn := !sampled && s.cfg.ownerUnsampled == .draw && stop && !error
  let owner := if sampled then !loop.ownerLost else !drawn || (s.answer loop.used).flag
  let used := loop.used + drawn.toNat
  let timeout := (s.answer used).flag
  { calls := [.startTransaction s.targetAddress .write started] ++ loop.calls
      ++ callIf (error || stop && owner) .issueBusStop ++ [.hasTimedOut timeout]
      ++ (if timeout then busResetCalls s.activeClockRate else [])
    result := if timeout then 4 else if !started then 2 else if loop.failed then 3 else 0
    used := used + 1
    bytes := loop.bytes
    closes := true }

/-- REQUEST_FROM as a whole, for a quantity other than 0 (R140 to R146). -/
def receiveWhole (address : Byte) (quantity : Word) (stop : Bool) (s : State) : WholeRun :=
  if (s.answer 0).flag then
    let first := (s.answer 1).byte
    let loop := receiveLoop s.answer (quantity.toNat - 1) 2
    let early := loop.ownerLost || loop.failed
    let sampled := sampledOwnership loop.calls
    let unsampled := !sampled && s.cfg.ownerUnsampled == .draw
    let before := unsampled && !early
    let timeout := (s.answer (loop.used + before.toNat)).flag
    let after := unsampled && early && !timeout && stop
    let owner :=
      if sampled then !loop.ownerLost
      else if before then (s.answer loop.used).flag
      else if after then (s.answer (loop.used + 1)).flag
      else true
    { calls := [.startTransaction address .read true, .receiveByte first] ++ loop.calls ++ [.signalStop, .hasTimedOut timeout]
        ++ callIf (timeout || stop && owner) .issueBusStop ++ (if timeout then busResetCalls s.activeClockRate else [])
      result := if timeout then 0 else BitVec.ofNat 32 (loop.bytes.length + 1 - (early || !owner).toNat)
      used := loop.used + before.toNat + 1 + after.toNat
      bytes := (first :: loop.bytes).take s.cfg.nCap
      closes := timeout }
  else
    let timeout := (s.answer 1).flag
    { calls := [.startTransaction address .read false, .hasTimedOut timeout]
        ++ (if timeout then busResetCalls s.activeClockRate else [])
      result := 0
      used := 2
      bytes := []
      closes := timeout }

/-! ## Contract laws (R223) -/

/-- The requests that end the latch of law L1. -/
def Request.endsTimeout : Request → Bool
  | .configureAsMaster _ => true
  | .configureAsSlave _ _ => true
  | .startTransaction _ _ => true
  | _ => false

/-- Law L1, timeout latch: after a true answer of `hasTimedOut`, no false one until the next configuration or start. -/
def TimeoutLatch (calls : List Call) : Prop :=
  ∀ i j : Nat, i < j → calls[i]? = some (Call.hasTimedOut true) → calls[j]? = some (Call.hasTimedOut false) →
    ∃ (k : Nat) (c : Call), i < k ∧ k < j ∧ calls[k]? = some c ∧ c.request.endsTimeout = true

/-- How far BEGIN_SLAVE has taken the peripheral, for law L2: not at all, or not since it was stopped; configured as slave
and not yet enabled as one (after `S0` of R180); configured and enabled as slave (from `S1` on). -/
inductive SlavePhase where
  | off
  | configured
  | serving
deriving DecidableEq, Repr

/-- The peripheral has been configured as slave (R204). -/
def Call.configuresSlave : Call → Bool
  | .configureAsSlave _ _ => true
  | _ => false

/-- The peripheral has been disabled or configured as master, which stops its events (R237). -/
def Call.stopsEvents : Call → Bool
  | .configureAsMaster _ => true
  | .disable => true
  | _ => false

/-- The phase after one more call. Events are enabled by configuring the peripheral as slave and enabling it then, so an
earlier enable does not count (R180, R262, R264), and they stop when it is disabled or configured as master (R237, R280). DEDUCED
(log 24): an enabled slave that is configured as slave again has not been stopped; a call of `enable` counts as soon as it
is made (R264), and any other call that never returns changes nothing. -/
def SlavePhase.after (phase : SlavePhase) (c : Call) : SlavePhase :=
  if c.stopsEvents then .off
  else if c.configuresSlave then (if phase = .serving then .serving else .configured)
  else if c.request = .enable ∧ phase = .configured then .serving
  else phase

/-- The phase after all the calls made since creation, before which the block has configured nothing (R262). -/
def slavePhase (calls : List Call) : SlavePhase := calls.foldl SlavePhase.after .off

/-- Law L2, slave events, of the whole event history since creation: SERVICE is invoked only when BEGIN_SLAVE has configured
and enabled the peripheral as slave, and `isSlaveMode` does not answer false in it. Every SERVICE step asks `isSlaveMode`
first, and nothing else asks it (R171), so its call stands for the invocation, also where it never returns. -/
def SlaveEvents (history : List Call) : Prop :=
  ∀ (i : Nat) (c : Call), history[i]? = some c → c.request = .isSlaveMode →
    c ≠ .isSlaveMode false ∧ slavePhase (history.take i) = .serving

/-- The snapshot of the SERVICE step whose calls begin the list, or none where the mode gate or a call that never returned
ended it before (R170). -/
def snapshotOf (calls : List Call) : Option Snapshot :=
  match calls.take 6 with
  | [.isSlaveMode true, .isAddressMatched am, .isStopSignaled sp, .isRestartSignaled rs, .isPeerRequestingRead rd,
      .isByteReady dr] => some ⟨am, sp, rs, rd, dr⟩
  | _ => none

/-- The snapshots of the SERVICE steps in these calls, in order; `isSlaveMode` is asked once by each SERVICE step and by
nothing else (R171). -/
def reportedSnapshots : List Call → List (Option Snapshot)
  | [] => []
  | c :: rest =>
    match c.request with
    | .isSlaveMode => snapshotOf (c :: rest) :: reportedSnapshots rest
    | _ => reportedSnapshots rest

/-- A snapshot reports an event when one of the three cases of R173 runs, and then the block handles it, by
`acknowledgeEvent` or by `sendByte` (R174 to R177, R225). -/
def Snapshot.reportsEvent (p : Snapshot) : Bool := p.endsWriteSession || p.am || p.dr

/-- Law L3, event clearing: an event that a SERVICE step has handled is not reported again by the next one. The answers do
not say which event a snapshot reports: `event k` is the peripheral's own identity of the event that the `k`-th SERVICE step
of these calls is told of, which a claim names with the law (log 19). -/
def EventClearing (event : Nat → Nat) (calls : List Call) : Prop :=
  ∀ (k : Nat) (p q : Snapshot), (reportedSnapshots calls)[k]? = some (some p) → p.reportsEvent = true →
    (reportedSnapshots calls)[k + 1]? = some (some q) → q.reportsEvent = true → event (k + 1) ≠ event k

/-- Law L5, responsive peer: starts and bytes are acknowledged, ownership is held, nothing times out. -/
def Responsive (calls : List Call) : Prop :=
  ∀ c ∈ calls, match c with
    | .startTransaction _ _ a => a = true
    | .sendByte _ a => a = true
    | .hasBusOwnership a => a = true
    | .hasTimedOut a => a = false
    | _ => True

/-! ## The concrete ring of R108 -/

/-- `store[0 .. N_CAP-1]`, a write cursor, a read cursor and a length (R108). -/
structure ConcreteRing where
  store : List Byte
  head : Nat
  tail : Nat
  count : Nat
deriving DecidableEq, Repr

/-- `Store` on the concrete ring (R108). -/
def ConcreteRing.put (n : Nat) (v : Byte) (r : ConcreteRing) : Bool × ConcreteRing :=
  if r.count = n then (false, r)
  else (true, { r with store := r.store.set r.head v, head := (r.head + 1) % n, count := r.count + 1 })

/-- `Read` on the concrete ring (R108). -/
def ConcreteRing.get (n : Nat) (r : ConcreteRing) : Option Byte × ConcreteRing :=
  if r.count = 0 then (none, r) else (r.store[r.tail]?, { r with tail := (r.tail + 1) % n, count := r.count - 1 })

/-- `Clear` on the concrete ring (R108). -/
def ConcreteRing.reset (r : ConcreteRing) : ConcreteRing := { r with count := 0, tail := r.head }

/-- The abstraction of R108: the concrete ring stands for a buffer when it has its storage bytes and write cursor, its
length, and the read cursor as far behind the write cursor as the buffer is long. -/
def ConcreteRing.standsFor (n : Nat) (k : ConcreteRing) (r : Ring) : Prop :=
  k.store = r.storage ∧ k.head = r.head ∧ k.count = r.c.length ∧ k.tail = (r.head + n - r.c.length) % n ∧ r.wf n

end Sys2Proof.Machine
end

