-- ==== Sys2Proof/Certificates/Slice0/Obligations.lean ====
section
/-! DEFINITION. The statements about the model that the provers are asked to prove. Where a docstring says "undisturbed",
no SERVICE step falls between the command's atomic actions (`State.undisturbed`); "law L4" is `State.callsReturn`, every
primitive call returns (spec/43_bus_peripheral.md R223). A state equation is also the frame: what it does not name is
unchanged. -/

section Statements

open Sys2Proof Sys2Proof.Machine

/-! ## Encoding -/

/-- R90: the worked encodings, read in both directions. -/
def Obligations.WorkedEncodings : Prop :=
  (∀ p ∈ ([(0x0000000000500010, .beginTransmission 0x50), (0x0000000000100011, .writeByte 0x10),
      (0x0000000000000113, .endTransmission true), (0x0000000000000013, .endTransmission false),
      (0x0000000300500114, .requestFrom 0x50 3 true), (0x00061A8000000003, .setClock 400000),
      (0x0000000000000001, .beginMaster), (0x0000000000420102, .beginSlave 0x42 true),
      (0x0000000100000120, .onReceive true 1), (0x0000000000000016, .read), (0x0000000000410240, .bufStore .rx 0x41)] :
      List (CommandWord × Instr)), encodeWord p.2 = p.1 ∧ decodeWord p.1 [] = .ok p.2)
  ∧ ∀ bytes : List Byte, encodeWord (.writeBytes 3 bytes) = 0x0000000300000012
      ∧ decodeWord 0x0000000300000012 bytes
        = if bytes.length = 3 then .ok (.writeBytes 3 bytes) else .error .payloadLength

/-- R79: a word selects a row exactly when it agrees with the row's mask and match; the reserved bits and the fields the
row does not use are then 0. -/
def Obligations.MaskSelectsRow : Prop :=
  ∀ (w : CommandWord) (o : Opcode),
    (decodeOpcode w = .ok o ↔ w &&& o.mask = o.pattern)
    ∧ (w &&& o.mask = o.pattern →
      opField w = o.op
      ∧ (w.extractLsb' 10 6).toNat = 0 ∧ (w.extractLsb' 24 8).toNat = 0
      ∧ (o ∉ [.beginSlave, .endTransmission, .requestFrom, .onReceive, .onRequest] → fField w = false)
      ∧ (o ∉ [.bufStore, .bufRead, .bufPeek, .bufAvailable, .bufIsFull, .bufClear] → sField w = .tx)
      ∧ (o ∉ [.beginSlave, .beginTransmission, .writeByte, .requestFrom, .bufStore] → aField w = 0)
      ∧ (o ∉ [.setClock, .writeBytes, .requestFrom, .onReceive, .onRequest] → wField w = 0))

/-- Decoding a serialized well-formed command gives it back, with whatever bytes follow it (R71, R74, R76 to R78). -/
def Obligations.DecodeEncode : Prop :=
  ∀ (i : Instr) (rest : List Byte), i.wellFormed = true → decodeBytes (encode i ++ rest) = .ok (i, rest)

/-- A word that decodes is the encoding of what it decodes to: no word has a second meaning (R71, R74, R79). -/
def Obligations.EncodeDecode : Prop :=
  ∀ (w : CommandWord) (payload : List Byte) (i : Instr), decodeWord w payload = .ok i →
    encodeWord i = w ∧ i.payload = payload ∧ i.wellFormed = true

/-! ## Presentation and refusal -/

/-- R85: a presented word that matches no row is refused, by the name of what is wrong with it; a refusal has no next
state, so no state changes and no peripheral call is made. -/
def Obligations.ReservedWordRefused : Prop :=
  ∀ (s : State) (p : Presented) (rest : List Presented), s.ctx.seq = .idle → s.presented = p :: rest →
    (∀ o : Opcode, p.command.word &&& o.mask ≠ o.pattern) →
    step s = .refused (.reserved
      (if opField p.command.word ∈ Opcode.all.map Opcode.op then .unusedBits else .unknownOpcode))

/-- The host port refuses SERVICE and the BUF_ commands, and a SERVICE step in whose callback the application agent
presents any command but the five it may present is refused (R86; that the refusal of the command is the refusal of the
whole step is the model's reading, log 15). -/
def Obligations.ClassesRefused : Prop :=
  (∀ (s : State) (p : Presented) (rest : List Presented) (i : Instr), s.ctx.seq = .idle → s.presented = p :: rest →
    p.port = .host → decodeWord p.command.word p.command.payload = .ok i →
    (i = .service ∨ ∃ sel : BufSel, (∃ v : Byte, i = .bufStore sel v) ∨ i = .bufRead sel ∨ i = .bufPeek sel
      ∨ i = .bufAvailable sel ∨ i = .bufIsFull sel ∨ i = .bufClear sel) →
    step s = .refused (.wrongPort .host))
  ∧ ∀ (s : State) (p : Snapshot) (before after : List Command) (c : Command) (returns : Bool) (more : List AppRun)
      (i : Instr), s.inService = false → s.callsReturn → s.reports p → s.callsBack p →
    s.apps = ⟨before ++ c :: after, returns⟩ :: more → (∀ x ∈ before, x.admitted = true) →
    decodeWord c.word c.payload = .ok i → forCallbacks i = false →
    exec .service s = .refused .notAdmittedInCallback

/-- A step runs the decoded command: it takes the command presented first off the list and is `exec` of it. -/
def Obligations.StepRunsDecoded : Prop :=
  ∀ (s : State) (p : Presented) (rest : List Presented) (i : Instr), s.ctx.seq = .idle → s.presented = p :: rest →
    decodeWord p.command.word p.command.payload = .ok i → p.port.admits i.opcode.cmdClass = true →
    step s = exec i { s with presented := rest }

/-- With nothing presented the block waits (R72, R263; that waiting is a step to the same state is the model's choice,
log 10). -/
def Obligations.WaitsWhenIdle : Prop :=
  ∀ s : State, s.ctx.seq = .idle → s.presented = [] → step s = .next s

/-- The state in which the host's table word comes next runs that word's command (the model's `withFetchWord`, log 11). -/
def Obligations.FetchWordRuns : Prop :=
  ∀ (s : State) (nbits w : Nat) (i : Instr), decodeTableWord nbits w = some i →
    step (s.withFetchWord nbits w) = exec i { s with ctx := Ctx.idle }

/-! ## Reset -/

/-- R260: every state element at creation; the address and the clock rate are values the proof cannot see, and the first
BEGIN_TRANSMISSION overwrites the address. -/
def Obligations.ResetState : Prop :=
  State.reset.tx.c = [] ∧ State.reset.rx.c = [] ∧ State.reset.transmissionOpen = false
  ∧ State.reset.activeClockRate = Config.defaultClock
  ∧ State.reset.onReceiveHandler = { registered := false, handle := 0 }
  ∧ State.reset.onRequestHandler = { registered := false, handle := 0 }
  ∧ State.reset.ctx = Ctx.idle ∧ State.reset.inService = false
  ∧ State.reset.targetAddress = Config.targetAddressAtReset
  ∧ ∀ address : Byte, ∃ t : State, exec (.beginTransmission address) State.reset = .next t ∧ t.targetAddress = address

/-! ## The ring buffers -/

/-- R101: a full buffer stays as it is and the result is 0; otherwise the byte goes behind the newest and the result is 1. -/
def Obligations.BufStore : Prop :=
  ∀ (sel : BufSel) (v : Byte) (s : State),
    ((s.buf sel).c.length = s.cfg.nCap → exec (.bufStore sel v) s = .next (s.deliver .buffer 0))
    ∧ ((s.buf sel).c.length ≠ s.cfg.nCap → ∃ r : Ring, r.c = (s.buf sel).c ++ [v]
      ∧ exec (.bufStore sel v) s = .next ((s.setBuf sel r).deliver .buffer 1))

/-- R102: the oldest byte is removed and delivered; an empty buffer stays as it is and the result is the sentinel. -/
def Obligations.BufRead : Prop :=
  ∀ (sel : BufSel) (s : State),
    ((s.buf sel).c = [] → exec (.bufRead sel) s = .next (s.deliver .buffer 0xFFFFFFFF))
    ∧ ∀ (v : Byte) (rest : List Byte), (s.buf sel).c = v :: rest → ∃ r : Ring, r.c = rest
      ∧ exec (.bufRead sel) s = .next ((s.setBuf sel r).deliver .buffer (v.setWidth 32))

/-- R103, R104, R105: the oldest byte or the sentinel, the length, and whether the buffer is full; nothing is changed. -/
def Obligations.BufObserve : Prop :=
  ∀ (sel : BufSel) (s : State), s.cfg.wf → (s.buf sel).c.length ≤ s.cfg.nCap →
    exec (.bufPeek sel) s = .next (s.deliver .buffer
      (match (s.buf sel).c with | [] => 0xFFFFFFFF | v :: _ => v.setWidth 32))
    ∧ (∃ n : Word, n.toNat = (s.buf sel).c.length ∧ exec (.bufAvailable sel) s = .next (s.deliver .buffer n))
    ∧ exec (.bufIsFull sel) s = .next (s.deliver .buffer (if (s.buf sel).c.length = s.cfg.nCap then 1 else 0))

/-- R106: the buffer is empty afterwards, its storage bytes unchanged. -/
def Obligations.BufClear : Prop :=
  ∀ (sel : BufSel) (s : State),
    exec (.bufClear sel) s = .next ((s.setBuf sel { s.buf sel with c := [] }).deliver .buffer 0)

/-- Bytes come out in the order they went in, behind those already there, and none is lost or made up (R52, R100). -/
def Obligations.FifoOrder : Prop :=
  ∀ (sel : BufSel) (bytes : List Byte) (s : State), (s.buf sel).c.length + bytes.length ≤ s.cfg.nCap →
    ∃ t : State,
      execAll (bytes.map (.bufStore sel) ++ List.replicate ((s.buf sel).c.length + bytes.length) (.bufRead sel)) s = .next t
      ∧ t.results = s.results ++ bytes.map (fun _ => ⟨.buffer, 1⟩)
          ++ ((s.buf sel).c ++ bytes).map (fun b => ⟨.buffer, b.setWidth 32⟩)
      ∧ (t.buf sel).c = []

/-- R108: the concrete ring with a write cursor, a read cursor and a length stands for the abstract sequence, and its
three operations give the same answers and stand for the same sequence afterwards. -/
def Obligations.ConcreteRingRefines : Prop :=
  ∀ (n : Nat) (k : ConcreteRing) (r : Ring), k.standsFor n r →
    (∀ i, i < k.count → k.store[(k.tail + i) % n]? = r.c[i]?)
    ∧ (∀ v : Byte, (k.put n v).1 = (r.store n v).1 ∧ (k.put n v).2.standsFor n (r.store n v).2)
    ∧ ((k.get n).1 = r.read.1 ∧ (k.get n).2.standsFor n r.read.2)
    ∧ k.reset.standsFor n r.clear

/-! ## Configuration -/

/-- R121, R123, R180: BEGIN_MASTER, END and BEGIN_SLAVE make the calls of their pseudocode in order and change no block
state (undisturbed, law L4). -/
def Obligations.ConfigureRuns : Prop :=
  ∀ s : State, s.undisturbed → s.callsReturn →
    exec .beginMaster s = .next (s.ended [.configureAsMaster s.activeClockRate, .enable] 0)
    ∧ exec .endBus s = .next (s.ended [.disable] 0)
    ∧ ∀ (address : Byte) (gc : Bool),
      exec (.beginSlave address gc) s = .next (s.ended [.configureAsSlave address gc, .enable] 0)

/-- R122: SET_CLOCK keeps the rate, then disables, configures as master at it and enables (undisturbed, law L4). -/
def Obligations.SetClockRuns : Prop :=
  ∀ (rate : Word) (s : State), s.undisturbed → s.callsReturn →
    exec (.setClock rate) s
      = .next { s.ended [.disable, .configureAsMaster rate, .enable] 0 with activeClockRate := rate }

/-- Under any interleaving, the configuration calls of a command are those its pseudocode gives it, or, where a call never
returns, their beginning: SERVICE makes none, and the transaction drivers make none but one bus reset at the active clock
rate (R124, R203 to R206, R261). -/
def Obligations.ConfigurationCallsOnly : Prop :=
  ∀ (i : Instr) (s t : State), s.Inv → exec i s = .next t →
    ∃ (calls : List Call) (more : List Request), t.trace = s.trace ++ calls
      ∧ mayConfigure s.activeClockRate i ((configurationCalls calls).map Call.request ++ more)
      ∧ (t.ctx.hung = false → more = [])

/-! ## The write transaction -/

/-- R125: BEGIN_TRANSMISSION keeps the address, clears `tx` and opens it, with no bus activity (undisturbed). -/
def Obligations.BeginTransmissionOpens : Prop :=
  ∀ (address : Byte) (s : State), s.undisturbed →
    exec (.beginTransmission address) s
      = .next { s.ended [] 0 with targetAddress := address, tx := { s.tx with c := [] }, transmissionOpen := true }

/-- R126: WRITE_BYTE is rejected with 0 when no transmission is open or `tx` is full; otherwise the byte goes behind the
newest one and the result is 1 (undisturbed). -/
def Obligations.WriteByteStores : Prop :=
  ∀ (v : Byte) (s : State), s.undisturbed →
    (s.transmissionOpen = false ∨ s.tx.c.length = s.cfg.nCap → exec (.writeByte v) s = .next (s.ended [] 0))
    ∧ (s.transmissionOpen = true → s.tx.c.length ≠ s.cfg.nCap →
      ∃ r : Ring, r.c = s.tx.c ++ [v] ∧ exec (.writeByte v) s = .next { s.ended [] 1 with tx := r })

/-- R127: WRITE_BYTES stores its bytes in order up to the room there is, none when no transmission is open, and the
result is how many it stored (undisturbed). -/
def Obligations.WriteBytesStoresWhatFits : Prop :=
  ∀ (count : Word) (payload : List Byte) (s : State), s.undisturbed → payload.length = count.toNat →
    s.tx.c.length ≤ s.cfg.nCap →
    ∃ (j : Nat) (r : Ring), j = (if s.transmissionOpen then min payload.length (s.cfg.nCap - s.tx.c.length) else 0)
      ∧ r.c = s.tx.c ++ payload.take j ∧ (j = 0 → r = s.tx)
      ∧ exec (.writeBytes count payload) s = .next { s.ended [] (BitVec.ofNat 32 j) with tx := r }

/-- Each command that a callback may present does there, in one atomic action, what it does when the host presents it
undisturbed (R186). -/
def Obligations.CallbackCommandsKeepTheirRules : Prop :=
  ∀ (i : Instr) (s : State), i.wellFormed = true → s.undisturbed → s.ctx = Ctx.idle → s.stop = none →
    s.tx.c.length ≤ s.cfg.nCap → forCallbacks i = true →
    ∃ f : State → State × Word, appMeaning i = some f
      ∧ exec i s = .next ((f s).1.deliver .host (f s).2)
      ∧ ∀ c : Command, decodeWord c.word c.payload = .ok i →
        appCommand s c = (f s).1.deliver .application (f s).2

/-- The labelled actions of END_TRANSMISSION do what its pseudocode does read as a whole (R128 to R133, R135), for every
sequence of the peripheral's answers (undisturbed, law L4). -/
def Obligations.EndTransmissionWhole : Prop :=
  ∀ (stop : Bool) (s : State), s.undisturbed → s.callsReturn → s.cfg.wf → s.tx.c.length ≤ s.cfg.nCap →
    exec (.endTransmission stop) s
      = .next { (s.asked (sendWhole stop s).used).ended (sendWhole stop s).calls (sendWhole stop s).result with
          tx := { s.tx with c := (sendWhole stop s).bytes }
          transmissionOpen := false }

/-- R135: when the address is not acknowledged, no byte is sent, `tx` is unchanged and the result is `AddressNack`, or
`Timeout` where the timeout query is answered true (undisturbed, law L4). -/
def Obligations.AddressNackSendsNothing : Prop :=
  ∀ (stop : Bool) (s : State), s.undisturbed → s.callsReturn → (s.answer 0).flag = false →
    ∃ (t : State) (calls : List Call), exec (.endTransmission stop) s = .next t ∧ t.trace = s.trace ++ calls
      ∧ calls.head? = some (.startTransaction s.targetAddress .write false)
      ∧ sentBytes calls = [] ∧ t.tx = s.tx ∧ t.transmissionOpen = false
      ∧ t.lastResult = some ⟨.host, if (s.answer 1).flag then 4 else 2⟩

/-- R130: the stop is issued once, just before the timeout query, after an error or where it was requested and ownership
holds; otherwise not (undisturbed, law L4). -/
def Obligations.SendStopRule : Prop :=
  ∀ (stop : Bool) (s : State), s.undisturbed → s.callsReturn → s.cfg.wf → s.tx.c.length ≤ s.cfg.nCap →
    ∃ (t : State) (calls before : List Call) (timeout : Bool) (after : List Call),
      exec (.endTransmission stop) s = .next t ∧ t.trace = s.trace ++ calls
      ∧ calls = before
          ++ callIf (hasAddressNack calls || hasDataNack calls || stop && ownerAfter s calls 1) .issueBusStop
          ++ .hasTimedOut timeout :: after
      ∧ .issueBusStop ∉ before ∧ .issueBusStop ∉ after
      ∧ sentBytes after = []

/-- R131: the timeout is asked for once, after the stop step; a true answer resets the bus at the active clock rate,
closes the transmission and returns `Timeout` whatever else happened (undisturbed, law L4). -/
def Obligations.SendTimeout : Prop :=
  ∀ (stop : Bool) (s : State), s.undisturbed → s.callsReturn → s.cfg.wf → s.tx.c.length ≤ s.cfg.nCap →
    ∃ (t : State) (calls before : List Call) (timeout : Bool),
      exec (.endTransmission stop) s = .next t ∧ t.trace = s.trace ++ calls
      ∧ calls = before ++ .hasTimedOut timeout :: (if timeout then busResetCalls s.activeClockRate else [])
      ∧ (∀ a : Bool, .hasTimedOut a ∉ before) ∧ configurationCalls before = []
      ∧ t.transmissionOpen = false ∧ t.activeClockRate = s.activeClockRate
      ∧ (timeout = true ↔ t.lastResult = some ⟨.host, 4⟩)

/-- Whatever the peripheral answers and whatever SERVICE steps fall in between, END_TRANSMISSION returns and its result is 0,
2, 3 or 4 (R132). That it returns leans on the model's finite list of SERVICE steps (log 1, unsafe for this clause), which
stands for the weak fairness of R282. -/
def Obligations.SendCodes : Prop :=
  ∀ (stop : Bool) (s : State), s.Inv → s.wellBehaved = true →
    ∃ (t : State) (code : Word), exec (.endTransmission stop) s = .next t ∧ t.lastResult = some ⟨.host, code⟩
      ∧ code ∈ ([0, 2, 3, 4] : List Word)

/-- R231: the error code of END_TRANSMISSION and its cause, the values of the codes, the bytes discarded on `DataNack` and
the bus reset of `Timeout` (undisturbed, law L4). -/
def Obligations.ErrorCodeCauses : Prop :=
  [ErrorCode.success, .dataTooLong, .addressNack, .dataNack, .timeout, .other].map errorCode = [0, 1, 2, 3, 4, 5]
  ∧ ∀ (stop : Bool) (s : State), s.undisturbed → s.callsReturn → s.cfg.wf → s.tx.c.length ≤ s.cfg.nCap →
    ∃ (t : State) (calls : List Call), exec (.endTransmission stop) s = .next t ∧ t.trace = s.trace ++ calls
      ∧ t.lastResult = some ⟨.host, codeResult
          (if sawTimeout calls then .timeout else if hasAddressNack calls then .addressNack
            else if hasDataNack calls then .dataNack else .success)⟩
      ∧ (hasDataNack calls = true → t.tx.c = [] ∧ hasAddressNack calls = false)
      ∧ configurationCalls calls = (if sawTimeout calls then busResetCalls s.activeClockRate else [])

/-- END_TRANSMISSION hands the bytes of `tx` to the bus in FIFO order, every one before the last acknowledged; those not
handed over stay in `tx`, or are discarded after a byte that was not acknowledged (R52, R128, R133; undisturbed, law L4). -/
def Obligations.SentBytesInOrder : Prop :=
  ∀ (stop : Bool) (s : State), s.undisturbed → s.callsReturn → s.cfg.wf → s.tx.c.length ≤ s.cfg.nCap →
    ∃ (t : State) (calls : List Call) (unsent : List Byte),
      exec (.endTransmission stop) s = .next t ∧ t.trace = s.trace ++ calls
      ∧ s.tx.c = sentBytes calls ++ unsent
      ∧ acknowledgedBytes calls = (if hasDataNack calls then (sentBytes calls).dropLast else sentBytes calls)
      ∧ t.tx.c = (if hasDataNack calls then [] else unsent)
      ∧ (unsent ≠ [] → hasDataNack calls = true ∨ hasAddressNack calls = true ∨ lostOwnership calls = true)

/-- R133: ownership lost in the loop ends it with no error: no stop, the unsent bytes kept, and the result `Success`
unless the timeout query is answered true (undisturbed, law L4). -/
def Obligations.OwnershipLossUnreported : Prop :=
  ∀ (stop : Bool) (s : State), s.undisturbed → s.callsReturn → s.cfg.wf → s.tx.c.length ≤ s.cfg.nCap →
    ∃ (t : State) (calls : List Call), exec (.endTransmission stop) s = .next t ∧ t.trace = s.trace ++ calls
      ∧ (lostOwnership calls = true →
        .issueBusStop ∉ calls ∧ hasDataNack calls = false
        ∧ t.tx.c = s.tx.c.drop (sentBytes calls).length ∧ t.tx.c ≠ []
        ∧ t.lastResult = some ⟨.host, if sawTimeout calls then 4 else 0⟩)

/-- R134: if the byte has been taken away between `Available(tx)` and `Read(tx)`, the loop ends as if `tx` were empty: no
byte is sent and no error is recorded. The state is the one in the middle of END_TRANSMISSION, about to read. -/
def Obligations.ConcurrentDrain : Prop :=
  ∀ s : State, s.undisturbed → s.callsReturn → s.ctx.op = some .endTransmission → s.ctx.seq = .e2Read →
    s.ctx.hung = false → s.ctx.err = .none → s.ctx.sampled = true → s.ctx.ownerLost = false → s.tx.c = [] →
    ∃ (t : State) (timeout : Bool), step s = .next t
      ∧ t.trace = s.trace ++ callIf s.ctx.stop .issueBusStop ++ .hasTimedOut timeout
          :: (if timeout then busResetCalls s.activeClockRate else [])
      ∧ t.tx = s.tx ∧ t.ctx = Ctx.idle ∧ t.lastResult = some ⟨.host, if timeout then 4 else 0⟩

/-- The source's round trip (P-8 of spec/95_test_vectors.md): bytes written and then sent to a responsive peer (law L5)
arrive there byte for byte and in order (undisturbed, law L4). -/
def Obligations.RoundTripResponsive : Prop :=
  ∀ (address : Byte) (count : Word) (data : List Byte) (stop : Bool) (s : State), s.undisturbed → s.callsReturn →
    s.cfg.wf → data.length = count.toNat → data.length ≤ s.cfg.nCap →
    ∃ (t : State) (calls : List Call),
      execAll [.beginTransmission address, .writeBytes count data, .endTransmission stop] s = .next t
      ∧ t.trace = s.trace ++ calls
      ∧ (Responsive calls →
        calls.head? = some (.startTransaction address .write true) ∧ acknowledgedBytes calls = data ∧ t.tx.c = []
        ∧ t.results = s.results ++ [⟨.host, 0⟩, ⟨.host, count⟩, ⟨.host, 0⟩])

/-- The source's P-4: after END_TRANSMISSION, writes return 0 and do not change `tx` until a new transmission is begun
(R126 to R128; undisturbed, law L4). -/
def Obligations.WritesRejectedAfterEnd : Prop :=
  ∀ (stop : Bool) (s : State), s.undisturbed → s.callsReturn → s.cfg.wf → s.tx.c.length ≤ s.cfg.nCap →
    ∃ t : State, exec (.endTransmission stop) s = .next t
      ∧ (∀ v : Byte, exec (.writeByte v) t = .next (t.ended [] 0))
      ∧ ∀ (count : Word) (payload : List Byte), payload.length = count.toNat →
        exec (.writeBytes count payload) t = .next (t.ended [] 0)

/-! ## The read transaction -/

/-- The source's P-2 (label `F0` of R140): a request for 0 bytes returns 0, calls nothing and leaves `rx` alone
(undisturbed). -/
def Obligations.RequestZero : Prop :=
  ∀ (address : Byte) (stop : Bool) (s : State), s.undisturbed →
    exec (.requestFrom address 0 stop) s = .next (s.ended [] 0)

/-- The labelled actions of REQUEST_FROM do what its pseudocode does read as a whole (R140 to R146), for every sequence of
the peripheral's answers (undisturbed, law L4). -/
def Obligations.RequestFromWhole : Prop :=
  ∀ (address : Byte) (quantity : Word) (stop : Bool) (s : State), s.undisturbed → s.callsReturn → s.cfg.wf →
    quantity ≠ 0 →
    ∃ r : Ring, r.c = (receiveWhole address quantity stop s).bytes
      ∧ exec (.requestFrom address quantity stop) s
        = .next { (s.asked (receiveWhole address quantity stop s).used).ended
              (receiveWhole address quantity stop s).calls (receiveWhole address quantity stop s).result with
            rx := r
            transmissionOpen := s.transmissionOpen && !(receiveWhole address quantity stop s).closes }

/-- R145: a start that is not acknowledged stores no byte and returns 0 after one timeout query, with no NACK and no stop;
a true answer resets the bus and closes the transmission (undisturbed, law L4). -/
def Obligations.ReadStartFailure : Prop :=
  ∀ (address : Byte) (quantity : Word) (stop : Bool) (s : State), s.undisturbed → s.callsReturn → quantity ≠ 0 →
    (s.answer 0).flag = false →
    ((s.answer 1).flag = false →
      exec (.requestFrom address quantity stop) s
        = .next { (s.asked 2).ended [.startTransaction address .read false, .hasTimedOut false] 0 with
            rx := { s.rx with c := [] } })
    ∧ ((s.answer 1).flag = true →
      exec (.requestFrom address quantity stop) s
        = .next { (s.asked 2).ended
              ([.startTransaction address .read false, .hasTimedOut true] ++ busResetCalls s.activeClockRate) 0 with
            rx := { s.rx with c := [] }
            transmissionOpen := false })

/-- The source's P-1: a responsive peer (law L5) gives exactly the bytes asked for, in transfer order, and `rx` holds
those there is room for (R140, R146; undisturbed, law L4). -/
def Obligations.ResponsiveRead : Prop :=
  ∀ (address : Byte) (quantity : Word) (stop : Bool) (s : State), s.undisturbed → s.callsReturn → s.cfg.wf →
    quantity ≠ 0 → (s.cfg.ownerUnsampled = .retained ∨ quantity ≠ 1) →
    ∃ (t : State) (calls : List Call), exec (.requestFrom address quantity stop) s = .next t
      ∧ t.trace = s.trace ++ calls
      ∧ (Responsive calls →
        t.lastResult = some ⟨.host, quantity⟩ ∧ (receivedBytes calls).length = quantity.toNat
        ∧ t.rx.c = (receivedBytes calls).take s.cfg.nCap)

/-- R142: with the start acknowledged and no timeout after the loop, the count is one less than the bytes received when
the loop ended early or ownership does not hold, and the last byte stays in `rx` (undisturbed, law L4). -/
def Obligations.CountAdjustment : Prop :=
  ∀ (address : Byte) (quantity : Word) (stop : Bool) (s : State), s.undisturbed → s.callsReturn → s.cfg.wf →
    quantity ≠ 0 → (s.answer 0).flag = true →
    ∃ (t : State) (calls loop after : List Call) (timeout : Bool),
      exec (.requestFrom address quantity stop) s = .next t ∧ t.trace = s.trace ++ calls
      ∧ calls = loop ++ .signalStop :: .hasTimedOut timeout :: after ∧ .signalStop ∉ loop ∧ sawTimeout after = false
      ∧ 1 ≤ (receivedBytes calls).length ∧ (receivedBytes calls).length ≤ quantity.toNat
      ∧ ((receivedBytes calls).length < quantity.toNat ↔ lostOwnership loop = true ∨ sawTimeout loop = true)
      ∧ t.rx.c = (receivedBytes calls).take s.cfg.nCap
      ∧ (timeout = false → t.lastResult = some ⟨.host, BitVec.ofNat 32
          (if (receivedBytes calls).length < quantity.toNat ∨ ownerAfter s calls 2 = false
            then (receivedBytes calls).length - 1 else (receivedBytes calls).length)⟩)

/-- R143: the stop is issued once, just after the timeout query that follows the NACK, where that query is answered true
or the stop was requested and ownership holds; otherwise, and on a start that is not acknowledged, not (undisturbed, law
L4). -/
def Obligations.ReceiveStopRule : Prop :=
  ∀ (address : Byte) (quantity : Word) (stop : Bool) (s : State), s.undisturbed → s.callsReturn → s.cfg.wf →
    quantity ≠ 0 →
    ∃ (t : State) (calls : List Call), exec (.requestFrom address quantity stop) s = .next t
      ∧ t.trace = s.trace ++ calls
      ∧ ((s.answer 0).flag = false → .issueBusStop ∉ calls)
      ∧ ((s.answer 0).flag = true → ∃ (loop after : List Call) (timeout : Bool),
        calls = loop ++ [.signalStop, .hasTimedOut timeout]
            ++ callIf (timeout || stop && ownerAfter s calls (if quantity = 1 then 2 else 4)) .issueBusStop ++ after
        ∧ .issueBusStop ∉ loop ∧ .issueBusStop ∉ after)

/-- R144: after the NACK the timeout is asked for once; a true answer issues the stop, resets the bus at the active clock
rate, closes the transmission and makes the result 0; a timeout seen only in the loop does none of this (undisturbed, law
L4). -/
def Obligations.ReceiveTimeout : Prop :=
  ∀ (address : Byte) (quantity : Word) (stop : Bool) (s : State), s.undisturbed → s.callsReturn → s.cfg.wf →
    quantity ≠ 0 → (s.answer 0).flag = true →
    ∃ (t : State) (loop after : List Call) (timeout : Bool),
      exec (.requestFrom address quantity stop) s = .next t
      ∧ t.trace = s.trace ++ loop ++ [.signalStop, .hasTimedOut timeout] ++ after
      ∧ .signalStop ∉ loop ∧ configurationCalls loop = []
      ∧ (timeout = true → after = .issueBusStop :: busResetCalls s.activeClockRate ∧ t.transmissionOpen = false
        ∧ t.lastResult = some ⟨.host, 0⟩)
      ∧ (timeout = false → (after = [] ∨ after = [.issueBusStop]) ∧ t.transmissionOpen = s.transmissionOpen)

/-- The source's P-7: under the timeout latch (law L1), any timeout that a transaction driver is told of reconfigures the
bus at the active clock rate and closes the transmission (R124, R131, R144, R145; undisturbed, law L4). -/
def Obligations.AnyTimeoutResets : Prop :=
  ∀ (i : Instr) (s : State), (∃ stop, i = .endTransmission stop) ∨ (∃ a q stop, i = .requestFrom a q stop) →
    s.undisturbed → s.callsReturn → s.cfg.wf → s.tx.c.length ≤ s.cfg.nCap →
    ∃ (t : State) (calls : List Call), exec i s = .next t ∧ t.trace = s.trace ++ calls
      ∧ (TimeoutLatch calls → sawTimeout calls = true →
        (∃ before : List Call, calls = before ++ busResetCalls s.activeClockRate ∧ configurationCalls before = [])
        ∧ t.transmissionOpen = false ∧ t.activeClockRate = s.activeClockRate
        ∧ t.lastResult = some ⟨.host, timeoutResult (some i.opcode)⟩)

/-- R150, R151, R152: AVAILABLE, READ and PEEK on `rx`. -/
def Obligations.ReadingRx : Prop :=
  ∀ s : State, s.cfg.wf → s.rx.c.length ≤ s.cfg.nCap →
    (∃ n : Word, n.toNat = s.rx.c.length ∧ exec .available s = .next (s.deliver .host n))
    ∧ (s.rx.c = [] → exec .read s = .next (s.deliver .host 0xFFFFFFFF)
      ∧ exec .peek s = .next (s.deliver .host 0xFFFFFFFF))
    ∧ ∀ (v : Byte) (rest : List Byte), s.rx.c = v :: rest →
      exec .read s = .next ({ s with rx := { s.rx with c := rest } }.deliver .host (v.setWidth 32))
      ∧ exec .peek s = .next (s.deliver .host (v.setWidth 32))

/-! ## Callback registration and the slave handler -/

/-- R181, R182: a registration replaces the slot, and the deregistration form leaves the handle 0. -/
def Obligations.HandlersRegister : Prop :=
  ∀ (register : Bool) (handle : Word) (s : State),
    exec (.onReceive register handle) s
      = .next ({ s with onReceiveHandler := { registered := register, handle := if register then handle else 0 } }.deliver
          .host 0)
    ∧ exec (.onRequest register handle) s
      = .next ({ s with onRequestHandler := { registered := register, handle := if register then handle else 0 } }.deliver
          .host 0)

/-- R171: when `isSlaveMode` answers false, SERVICE makes no other call and changes no state (law L4). -/
def Obligations.ModeGate : Prop :=
  ∀ s : State, s.inService = false → s.callsReturn → (s.answer 0).flag = false →
    exec .service s = .next ((s.asked 1).served [.isSlaveMode false])

/-- R178: with no event in the snapshot, SERVICE makes no call after the predicate reads and changes no state (law L4). -/
def Obligations.NoEvent : Prop :=
  ∀ (p : Snapshot) (s : State), s.inService = false → s.callsReturn → s.reports p →
    p.endsWriteSession = false → p.am = false → p.dr = false →
    exec .service s = .next ((s.asked 6).served (snapshotCalls p))

/-- R174: the end of an inbound write session is acknowledged, then `onReceive` is called with the number of bytes in `rx`
if it is registered, then `rx` is cleared; nothing else changes but what the callback's commands do. -/
def Obligations.EndOfWriteSession : Prop :=
  ∀ (p : Snapshot) (s : State), s.inService = false → s.wellBehaved = true → s.reports p → p.endsWriteSession = true →
    (s.onReceiveHandler.registered = false →
      exec .service s = .next { (s.asked 6).served (snapshotCalls p ++ [.signalContinue, .acknowledgeEvent]) with
        rx := { s.rx with c := [] } })
    ∧ (s.onReceiveHandler.registered = true →
      exec .service s = .next { (s.asked 6).served (snapshotCalls p ++ [.signalContinue, .acknowledgeEvent,
          .callbackOnReceive s.onReceiveHandler.handle (BitVec.ofNat 32 s.rx.c.length)]) with
        tx := s.afterCallback.tx
        rx := { s.afterCallback.rx with c := [] }
        apps := s.apps.tail
        results := s.afterCallback.results ++ [⟨.event, 0⟩] })

/-- R175: an address match that case 1 does not take is acknowledged; only for a master-read, `tx` is cleared, the
transmission is opened and then `onRequest` is called if it is registered; nothing else changes but what the callback's
commands do, on the cleared and opened `tx`. -/
def Obligations.AddressMatch : Prop :=
  ∀ (p : Snapshot) (s : State), s.inService = false → s.wellBehaved = true → s.reports p →
    p.endsWriteSession = false → p.am = true →
    (p.rd = false →
      exec .service s = .next ((s.asked 6).served (snapshotCalls p ++ [.signalContinue, .acknowledgeEvent])))
    ∧ (p.rd = true → s.onRequestHandler.registered = false →
      exec .service s = .next { (s.asked 6).served (snapshotCalls p ++ [.signalContinue, .acknowledgeEvent]) with
        tx := { s.tx with c := [] }, transmissionOpen := true })
    ∧ (p.rd = true → s.onRequestHandler.registered = true →
      let u : State := { s with tx := { s.tx with c := [] }, transmissionOpen := true }
      exec .service s = .next { (s.asked 6).served (snapshotCalls p ++ [.signalContinue, .acknowledgeEvent,
          .callbackOnRequest s.onRequestHandler.handle]) with
        tx := u.afterCallback.tx
        rx := u.afterCallback.rx
        apps := s.apps.tail
        transmissionOpen := true
        results := u.afterCallback.results ++ [⟨.event, 0⟩] })

/-- R176: for a master-read data slot the oldest byte of `tx`, or the fill byte `0xFF`, is handed over, and the answer is
the new `transmissionOpen`; no `acknowledgeEvent` follows (law L4). -/
def Obligations.SupplyByte : Prop :=
  ∀ (p : Snapshot) (s : State), s.inService = false → s.callsReturn → s.reports p →
    p.endsWriteSession = false → p.am = false → p.dr = true → p.rd = true →
    exec .service s = .next
      { (s.asked 7).served (snapshotCalls p ++ [.sendByte (s.tx.c.head?.getD 0xFF) (s.answer 6).flag]) with
        tx := { s.tx with c := s.tx.c.tail }, transmissionOpen := (s.answer 6).flag }

/-- R177: for a master-write data slot a full `rx` rejects the byte without receiving it; otherwise the byte is received,
stored and accepted; the event is acknowledged either way (law L4). -/
def Obligations.TakeByte : Prop :=
  ∀ (p : Snapshot) (s : State), s.inService = false → s.callsReturn → s.reports p →
    p.endsWriteSession = false → p.am = false → p.dr = true → p.rd = false →
    (s.rx.c.length = s.cfg.nCap →
      exec .service s = .next ((s.asked 6).served (snapshotCalls p ++ [.signalStop, .acknowledgeEvent])))
    ∧ (s.rx.c.length ≠ s.cfg.nCap → ∃ r : Ring, r.c = s.rx.c ++ [(s.answer 6).byte]
      ∧ exec .service s = .next
        { (s.asked 7).served
            (snapshotCalls p ++ [.receiveByte (s.answer 6).byte, .signalContinue, .acknowledgeEvent]) with rx := r })

/-- The source's P-9: a peer's write session of any bytes that fit, then a stop; `onReceive` is called exactly once, with
their number, and inside it `available()` and `read()` give that number and the bytes in order; then `rx` is empty. -/
def Obligations.InboundSession : Prop :=
  ∀ (bytes : List Byte) (handle : Word) (s : State) (more : List Draw) (rest : List AppRun), s.Inv → s.callsReturn →
    s.rx.c = [] → bytes.length ≤ s.cfg.nCap → s.onReceiveHandler = ⟨true, handle⟩ →
    s.apps = ⟨⟨0x15, []⟩ :: bytes.map (fun _ => ⟨0x16, []⟩), true⟩ :: rest →
    s.answers = bytes.flatMap (fun b => snapshotAnswers ⟨false, false, false, false, true⟩ ++ [⟨false, b⟩])
      ++ snapshotAnswers ⟨false, true, false, false, false⟩ ++ more →
    ∃ (t : State) (calls : List Call), execAll (List.replicate (bytes.length + 1) .service) s = .next t
      ∧ t.trace = s.trace ++ calls
      ∧ calls.filter (fun c => match c with | .callbackOnReceive _ _ => true | _ => false)
        = [.callbackOnReceive handle (BitVec.ofNat 32 bytes.length)]
      ∧ t.results = s.results ++ bytes.map (fun _ => ⟨.event, 0⟩)
          ++ [⟨.application, BitVec.ofNat 32 bytes.length⟩] ++ bytes.map (fun b => ⟨.application, b.setWidth 32⟩)
          ++ [⟨.event, 0⟩]
      ∧ t.rx.c = []

/-- The source's P-10: a peer reads; inside `onRequest` the application writes its data; the peer gets what fits of the
data in order and then `0xFF` for every further byte, and `transmissionOpen` is its answer to the last one. -/
def Obligations.OutboundSession : Prop :=
  ∀ (data : List Byte) (count handle : Word) (acks : List Bool) (s : State) (more : List Draw) (rest : List AppRun),
    s.Inv → s.callsReturn → data.length = count.toNat → s.onRequestHandler = ⟨true, handle⟩ →
    s.apps = ⟨[⟨encodeWord (.writeBytes count data), data⟩], true⟩ :: rest →
    s.answers = snapshotAnswers ⟨true, false, false, true, false⟩
      ++ acks.flatMap (fun a => snapshotAnswers ⟨false, false, false, true, true⟩ ++ [⟨a, 0⟩]) ++ more →
    ∃ (t : State) (calls : List Call), execAll (List.replicate (acks.length + 1) .service) s = .next t
      ∧ t.trace = s.trace ++ calls
      ∧ sentBytes calls = (data.take s.cfg.nCap ++ List.replicate acks.length 0xFF).take acks.length
      ∧ t.transmissionOpen = acks.getLast?.getD true

/-- SERVICE neither reads nor writes the sequencer context: two runs from states that differ there differ only there
afterwards (R34, R239). -/
def Obligations.ServiceIgnoresSequencer : Prop :=
  ∀ (c : Ctx) (s : State),
    exec .service { s with ctx := c }
      = match exec .service s with
        | .next t => .next { t with ctx := c }
        | .fault f => .fault f
        | .refused r => .refused r

/-- A SERVICE step that falls just before the first action of a command does what the same SERVICE step does before the
command is presented (R57, R58). -/
def Obligations.ServiceJustBefore : Prop :=
  ∀ (i : Instr) (k : Nat) (rest : List Nat) (s t : State), isMacro i = true → s.Inv → s.schedule = k :: rest →
    exec .service s = .next t → exec i { s with schedule := (k + 1) :: rest } = exec i t

/-- The two hangs are kept (R202, R186). A primitive call of a command that never returns leaves the foreground agent stuck
for ever and stops nothing else: SERVICE is served, the host's commands wait. A call of SERVICE, or a callback, that never
returns stops both agents, which is a fault of the machine (log 14). -/
def Obligations.HangsAreKept : Prop :=
  (∀ (s : State) (more : List Nat), s.callsLeft = 0 :: more → s.undisturbed →
    (∃ c : Ctx, c.seq ≠ .idle ∧ exec .beginMaster s = .next (s.stuckIn (.configureAsMaster s.activeClockRate) more c))
    ∧ (∀ a g, ∃ c : Ctx, c.seq ≠ .idle ∧ exec (.beginSlave a g) s = .next (s.stuckIn (.configureAsSlave a g) more c))
    ∧ (∀ r, ∃ c : Ctx, c.seq ≠ .idle
      ∧ exec (.setClock r) s = .next { s.stuckIn .disable more c with activeClockRate := r })
    ∧ (∃ c : Ctx, c.seq ≠ .idle ∧ exec .endBus s = .next (s.stuckIn .disable more c))
    ∧ (∀ stop, ∃ c : Ctx, c.seq ≠ .idle ∧ exec (.endTransmission stop) s
        = .next { s.stuckIn (.startTransaction s.targetAddress .write) more c with transmissionOpen := false })
    ∧ ∀ a q stop, q ≠ 0 → ∃ c : Ctx, c.seq ≠ .idle ∧ exec (.requestFrom a q stop) s
        = .next { s.stuckIn (.startTransaction a .read) more c with rx := { s.rx with c := [] } })
  ∧ (∀ s t : State, s.stuck = true → step s = .next t → t.ctx = s.ctx)
  ∧ (∀ (s : State) (before rest : List Presented) (p : Presented), s.stuck = true → s.presented = before ++ p :: rest →
    (∀ x ∈ before, x.port = .host) → p.port = .event → decodeWord p.command.word p.command.payload = .ok .service →
    step s = exec .service { s with presented := before ++ rest })
  ∧ (∀ s : State, s.stuck = true → (∀ x ∈ s.presented, x.port = .host) → step s = .next s)
  ∧ (∀ (s : State) (more : List Nat), s.callsLeft = 0 :: more → s.inService = false →
    exec .service s = .fault (.peripheralNeverReturns (s.trace ++ [.unreturned .isSlaveMode]))
    ∧ ∀ (i : Instr) (k : Nat) (rest : List Nat), isMacro i = true → s.schedule = (k + 1) :: rest →
      exec i s = .fault (.peripheralNeverReturns (s.trace ++ [.unreturned .isSlaveMode])))
  ∧ ∀ (s : State) (p : Snapshot) (commands : List Command) (more : List AppRun), s.inService = false → s.callsReturn →
    s.reports p → s.callsBack p → s.apps = ⟨commands, false⟩ :: more → (∀ c ∈ commands, c.admitted = true) →
    exec .service s = .fault (.callbackNeverReturns
      (s.trace ++ snapshotCalls p ++ [.signalContinue, .acknowledgeEvent, s.handOver p]))

/-! ## The whole machine -/

/-- Under any interleaving, `targetAddress` is written only by BEGIN_TRANSMISSION, `activeClockRate` only by SET_CLOCK,
each handler slot only by its registration command, and the parameters by nothing (R9, R25, R27, R28). -/
def Obligations.FieldsWrittenByTheirCommands : Prop :=
  ∀ (i : Instr) (s t : State), exec i s = .next t →
    t.cfg = s.cfg
    ∧ t.targetAddress = (match i with | .beginTransmission a => a | _ => s.targetAddress)
    ∧ t.activeClockRate = (match i with | .setClock r => r | _ => s.activeClockRate)
    ∧ t.onReceiveHandler
      = (match i with | .onReceive b h => ⟨b, if b then h else 0⟩ | _ => s.onReceiveHandler)
    ∧ t.onRequestHandler
      = (match i with | .onRequest b h => ⟨b, if b then h else 0⟩ | _ => s.onRequestHandler)

/-- R212: under any interleaving, END_TRANSMISSION and REQUEST_FROM issue at most one bus stop condition, and every other
command, SERVICE among them, none. -/
def Obligations.StopsAtMostOnce : Prop :=
  ∀ (i : Instr) (s t : State), exec i s = .next t →
    ∃ calls : List Call, t.trace = s.trace ++ calls ∧ (calls.map Call.request).count .issueBusStop ≤ mayIssueStops i

/-- The invariant holds at creation, whatever the parameters are. -/
def Obligations.InvAtReset : Prop := State.reset.Inv

/-- Every step keeps the invariant: capacity, both buffers and their storage, the handler slots, `inService` (R9, R36,
R100, R108, R181, R182), and that an agent is stuck only inside a command (R202). -/
def Obligations.InvKeptByStep : Prop :=
  ∀ s t : State, s.Inv → step s = .next t → t.Inv

/-- Every command ends: from every state that meets the invariant, for every interleaving and every sequence of answers,
provided that calls and callbacks return, the command gives a next state with no command running and delivers a result at
its port (R14, R80, R120, R201). It leans on the model's finite list of SERVICE steps (log 1, unsafe for this claim), which
stands for the weak fairness of R282: a peripheral that raises SERVICE without end is not shown. -/
def Obligations.CommandsReturn : Prop :=
  ∀ (i : Instr) (s : State), s.Inv → s.wellBehaved = true → s.ctx = Ctx.idle →
    ∃ (t : State) (earlier : List Result) (v : Word), exec i s = .next t ∧ t.ctx = Ctx.idle
      ∧ t.results = s.results ++ earlier ++ [⟨portOf i.opcode.cmdClass, v⟩]

end Statements
end

