-- ==== Sys2Proof/Laws/State.lean ====
section
/-! SUPPORT. What each named update of the state does to each field: one lemma a field and update, so that no later proof
unfolds a record update. -/

namespace Sys2Proof.Machine.State

@[simp] theorem call_cfg (c : Call) (s : State) : (s.call c).cfg = s.cfg := rfl
@[simp] theorem call_tx (c : Call) (s : State) : (s.call c).tx = s.tx := rfl
@[simp] theorem call_rx (c : Call) (s : State) : (s.call c).rx = s.rx := rfl
@[simp] theorem call_targetAddress (c : Call) (s : State) : (s.call c).targetAddress = s.targetAddress := rfl
@[simp] theorem call_transmissionOpen (c : Call) (s : State) : (s.call c).transmissionOpen = s.transmissionOpen := rfl
@[simp] theorem call_activeClockRate (c : Call) (s : State) : (s.call c).activeClockRate = s.activeClockRate := rfl
@[simp] theorem call_onReceiveHandler (c : Call) (s : State) : (s.call c).onReceiveHandler = s.onReceiveHandler := rfl
@[simp] theorem call_onRequestHandler (c : Call) (s : State) : (s.call c).onRequestHandler = s.onRequestHandler := rfl
@[simp] theorem call_ctx (c : Call) (s : State) : (s.call c).ctx = s.ctx := rfl
@[simp] theorem call_inService (c : Call) (s : State) : (s.call c).inService = s.inService := rfl
@[simp] theorem call_presented (c : Call) (s : State) : (s.call c).presented = s.presented := rfl
@[simp] theorem call_schedule (c : Call) (s : State) : (s.call c).schedule = s.schedule := rfl
@[simp] theorem call_answers (c : Call) (s : State) : (s.call c).answers = s.answers := rfl
@[simp] theorem call_draws (c : Call) (s : State) : (s.call c).draws = s.draws := rfl
@[simp] theorem call_apps (c : Call) (s : State) : (s.call c).apps = s.apps := rfl
@[simp] theorem call_trace (c : Call) (s : State) : (s.call c).trace = s.trace ++ [s.entry c] := rfl
@[simp] theorem call_callsLeft (c : Call) (s : State) : (s.call c).callsLeft = spendCall s.callsLeft := rfl
@[simp] theorem call_results (c : Call) (s : State) : (s.call c).results = s.results := rfl

@[simp] theorem record_cfg (c : Call) (s : State) : (s.record c).cfg = s.cfg := rfl
@[simp] theorem record_tx (c : Call) (s : State) : (s.record c).tx = s.tx := rfl
@[simp] theorem record_rx (c : Call) (s : State) : (s.record c).rx = s.rx := rfl
@[simp] theorem record_targetAddress (c : Call) (s : State) : (s.record c).targetAddress = s.targetAddress := rfl
@[simp] theorem record_transmissionOpen (c : Call) (s : State) : (s.record c).transmissionOpen = s.transmissionOpen := rfl
@[simp] theorem record_activeClockRate (c : Call) (s : State) : (s.record c).activeClockRate = s.activeClockRate := rfl
@[simp] theorem record_onReceiveHandler (c : Call) (s : State) : (s.record c).onReceiveHandler = s.onReceiveHandler := rfl
@[simp] theorem record_onRequestHandler (c : Call) (s : State) : (s.record c).onRequestHandler = s.onRequestHandler := rfl
@[simp] theorem record_ctx (c : Call) (s : State) : (s.record c).ctx = s.ctx := rfl
@[simp] theorem record_inService (c : Call) (s : State) : (s.record c).inService = s.inService := rfl
@[simp] theorem record_presented (c : Call) (s : State) : (s.record c).presented = s.presented := rfl
@[simp] theorem record_schedule (c : Call) (s : State) : (s.record c).schedule = s.schedule := rfl
@[simp] theorem record_answers (c : Call) (s : State) : (s.record c).answers = s.answers := rfl
@[simp] theorem record_draws (c : Call) (s : State) : (s.record c).draws = s.draws := rfl
@[simp] theorem record_callsLeft (c : Call) (s : State) : (s.record c).callsLeft = s.callsLeft := rfl
@[simp] theorem record_apps (c : Call) (s : State) : (s.record c).apps = s.apps := rfl
@[simp] theorem record_trace (c : Call) (s : State) : (s.record c).trace = s.trace ++ [c] := rfl
@[simp] theorem record_results (c : Call) (s : State) : (s.record c).results = s.results := rfl
@[simp] theorem record_stop (c : Call) (s : State) : (s.record c).stop = s.stop := rfl

@[simp] theorem dropDraw_cfg (s : State) : s.dropDraw.cfg = s.cfg := rfl
@[simp] theorem dropDraw_tx (s : State) : s.dropDraw.tx = s.tx := rfl
@[simp] theorem dropDraw_rx (s : State) : s.dropDraw.rx = s.rx := rfl
@[simp] theorem dropDraw_targetAddress (s : State) : s.dropDraw.targetAddress = s.targetAddress := rfl
@[simp] theorem dropDraw_transmissionOpen (s : State) : s.dropDraw.transmissionOpen = s.transmissionOpen := rfl
@[simp] theorem dropDraw_activeClockRate (s : State) : s.dropDraw.activeClockRate = s.activeClockRate := rfl
@[simp] theorem dropDraw_onReceiveHandler (s : State) : s.dropDraw.onReceiveHandler = s.onReceiveHandler := rfl
@[simp] theorem dropDraw_onRequestHandler (s : State) : s.dropDraw.onRequestHandler = s.onRequestHandler := rfl
@[simp] theorem dropDraw_ctx (s : State) : s.dropDraw.ctx = s.ctx := rfl
@[simp] theorem dropDraw_inService (s : State) : s.dropDraw.inService = s.inService := rfl
@[simp] theorem dropDraw_presented (s : State) : s.dropDraw.presented = s.presented := rfl
@[simp] theorem dropDraw_schedule (s : State) : s.dropDraw.schedule = s.schedule := rfl
@[simp] theorem dropDraw_answers (s : State) : s.dropDraw.answers = s.answers.tail := rfl
@[simp] theorem dropDraw_draws (s : State) : s.dropDraw.draws = s.draws + 1 := rfl
@[simp] theorem dropDraw_callsLeft (s : State) : s.dropDraw.callsLeft = s.callsLeft := rfl
@[simp] theorem dropDraw_apps (s : State) : s.dropDraw.apps = s.apps := rfl
@[simp] theorem dropDraw_trace (s : State) : s.dropDraw.trace = s.trace := rfl
@[simp] theorem dropDraw_results (s : State) : s.dropDraw.results = s.results := rfl
@[simp] theorem dropDraw_stop (s : State) : s.dropDraw.stop = s.stop := rfl

@[simp] theorem raiseStop_cfg (x : Stop) (s : State) : (s.raiseStop x).cfg = s.cfg := rfl
@[simp] theorem raiseStop_tx (x : Stop) (s : State) : (s.raiseStop x).tx = s.tx := rfl
@[simp] theorem raiseStop_rx (x : Stop) (s : State) : (s.raiseStop x).rx = s.rx := rfl
@[simp] theorem raiseStop_targetAddress (x : Stop) (s : State) : (s.raiseStop x).targetAddress = s.targetAddress := rfl
@[simp] theorem raiseStop_transmissionOpen (x : Stop) (s : State) : (s.raiseStop x).transmissionOpen = s.transmissionOpen := rfl
@[simp] theorem raiseStop_activeClockRate (x : Stop) (s : State) : (s.raiseStop x).activeClockRate = s.activeClockRate := rfl
@[simp] theorem raiseStop_onReceiveHandler (x : Stop) (s : State) : (s.raiseStop x).onReceiveHandler = s.onReceiveHandler := rfl
@[simp] theorem raiseStop_onRequestHandler (x : Stop) (s : State) : (s.raiseStop x).onRequestHandler = s.onRequestHandler := rfl
@[simp] theorem raiseStop_ctx (x : Stop) (s : State) : (s.raiseStop x).ctx = s.ctx := rfl
@[simp] theorem raiseStop_inService (x : Stop) (s : State) : (s.raiseStop x).inService = s.inService := rfl
@[simp] theorem raiseStop_presented (x : Stop) (s : State) : (s.raiseStop x).presented = s.presented := rfl
@[simp] theorem raiseStop_schedule (x : Stop) (s : State) : (s.raiseStop x).schedule = s.schedule := rfl
@[simp] theorem raiseStop_answers (x : Stop) (s : State) : (s.raiseStop x).answers = s.answers := rfl
@[simp] theorem raiseStop_draws (x : Stop) (s : State) : (s.raiseStop x).draws = s.draws := rfl
@[simp] theorem raiseStop_callsLeft (x : Stop) (s : State) : (s.raiseStop x).callsLeft = s.callsLeft := rfl
@[simp] theorem raiseStop_apps (x : Stop) (s : State) : (s.raiseStop x).apps = s.apps := rfl
@[simp] theorem raiseStop_trace (x : Stop) (s : State) : (s.raiseStop x).trace = s.trace := rfl
@[simp] theorem raiseStop_results (x : Stop) (s : State) : (s.raiseStop x).results = s.results := rfl

@[simp] theorem deliver_cfg (p : Port) (w : Word) (s : State) : (s.deliver p w).cfg = s.cfg := rfl
@[simp] theorem deliver_tx (p : Port) (w : Word) (s : State) : (s.deliver p w).tx = s.tx := rfl
@[simp] theorem deliver_rx (p : Port) (w : Word) (s : State) : (s.deliver p w).rx = s.rx := rfl
@[simp] theorem deliver_targetAddress (p : Port) (w : Word) (s : State) : (s.deliver p w).targetAddress = s.targetAddress := rfl
@[simp] theorem deliver_transmissionOpen (p : Port) (w : Word) (s : State) : (s.deliver p w).transmissionOpen = s.transmissionOpen := rfl
@[simp] theorem deliver_activeClockRate (p : Port) (w : Word) (s : State) : (s.deliver p w).activeClockRate = s.activeClockRate := rfl
@[simp] theorem deliver_onReceiveHandler (p : Port) (w : Word) (s : State) : (s.deliver p w).onReceiveHandler = s.onReceiveHandler := rfl
@[simp] theorem deliver_onRequestHandler (p : Port) (w : Word) (s : State) : (s.deliver p w).onRequestHandler = s.onRequestHandler := rfl
@[simp] theorem deliver_ctx (p : Port) (w : Word) (s : State) : (s.deliver p w).ctx = s.ctx := rfl
@[simp] theorem deliver_inService (p : Port) (w : Word) (s : State) : (s.deliver p w).inService = s.inService := rfl
@[simp] theorem deliver_presented (p : Port) (w : Word) (s : State) : (s.deliver p w).presented = s.presented := rfl
@[simp] theorem deliver_schedule (p : Port) (w : Word) (s : State) : (s.deliver p w).schedule = s.schedule := rfl
@[simp] theorem deliver_answers (p : Port) (w : Word) (s : State) : (s.deliver p w).answers = s.answers := rfl
@[simp] theorem deliver_draws (p : Port) (w : Word) (s : State) : (s.deliver p w).draws = s.draws := rfl
@[simp] theorem deliver_callsLeft (p : Port) (w : Word) (s : State) : (s.deliver p w).callsLeft = s.callsLeft := rfl
@[simp] theorem deliver_apps (p : Port) (w : Word) (s : State) : (s.deliver p w).apps = s.apps := rfl
@[simp] theorem deliver_trace (p : Port) (w : Word) (s : State) : (s.deliver p w).trace = s.trace := rfl
@[simp] theorem deliver_results (p : Port) (w : Word) (s : State) : (s.deliver p w).results = s.results ++ [⟨p, w⟩] := rfl
@[simp] theorem deliver_stop (p : Port) (w : Word) (s : State) : (s.deliver p w).stop = s.stop := rfl

@[simp] theorem setBuf_cfg (b : BufSel) (r : Ring) (s : State) : (s.setBuf b r).cfg = s.cfg := rfl
@[simp] theorem setBuf_targetAddress (b : BufSel) (r : Ring) (s : State) : (s.setBuf b r).targetAddress = s.targetAddress := rfl
@[simp] theorem setBuf_transmissionOpen (b : BufSel) (r : Ring) (s : State) : (s.setBuf b r).transmissionOpen = s.transmissionOpen := rfl
@[simp] theorem setBuf_activeClockRate (b : BufSel) (r : Ring) (s : State) : (s.setBuf b r).activeClockRate = s.activeClockRate := rfl
@[simp] theorem setBuf_onReceiveHandler (b : BufSel) (r : Ring) (s : State) : (s.setBuf b r).onReceiveHandler = s.onReceiveHandler := rfl
@[simp] theorem setBuf_onRequestHandler (b : BufSel) (r : Ring) (s : State) : (s.setBuf b r).onRequestHandler = s.onRequestHandler := rfl
@[simp] theorem setBuf_ctx (b : BufSel) (r : Ring) (s : State) : (s.setBuf b r).ctx = s.ctx := rfl
@[simp] theorem setBuf_inService (b : BufSel) (r : Ring) (s : State) : (s.setBuf b r).inService = s.inService := rfl
@[simp] theorem setBuf_presented (b : BufSel) (r : Ring) (s : State) : (s.setBuf b r).presented = s.presented := rfl
@[simp] theorem setBuf_schedule (b : BufSel) (r : Ring) (s : State) : (s.setBuf b r).schedule = s.schedule := rfl
@[simp] theorem setBuf_answers (b : BufSel) (r : Ring) (s : State) : (s.setBuf b r).answers = s.answers := rfl
@[simp] theorem setBuf_draws (b : BufSel) (r : Ring) (s : State) : (s.setBuf b r).draws = s.draws := rfl
@[simp] theorem setBuf_callsLeft (b : BufSel) (r : Ring) (s : State) : (s.setBuf b r).callsLeft = s.callsLeft := rfl
@[simp] theorem setBuf_apps (b : BufSel) (r : Ring) (s : State) : (s.setBuf b r).apps = s.apps := rfl
@[simp] theorem setBuf_trace (b : BufSel) (r : Ring) (s : State) : (s.setBuf b r).trace = s.trace := rfl
@[simp] theorem setBuf_results (b : BufSel) (r : Ring) (s : State) : (s.setBuf b r).results = s.results := rfl
@[simp] theorem setBuf_stop (b : BufSel) (r : Ring) (s : State) : (s.setBuf b r).stop = s.stop := rfl

@[simp] theorem clearBuf_cfg (b : BufSel) (s : State) : (s.clearBuf b).cfg = s.cfg := rfl
@[simp] theorem clearBuf_targetAddress (b : BufSel) (s : State) : (s.clearBuf b).targetAddress = s.targetAddress := rfl
@[simp] theorem clearBuf_transmissionOpen (b : BufSel) (s : State) : (s.clearBuf b).transmissionOpen = s.transmissionOpen := rfl
@[simp] theorem clearBuf_activeClockRate (b : BufSel) (s : State) : (s.clearBuf b).activeClockRate = s.activeClockRate := rfl
@[simp] theorem clearBuf_onReceiveHandler (b : BufSel) (s : State) : (s.clearBuf b).onReceiveHandler = s.onReceiveHandler := rfl
@[simp] theorem clearBuf_onRequestHandler (b : BufSel) (s : State) : (s.clearBuf b).onRequestHandler = s.onRequestHandler := rfl
@[simp] theorem clearBuf_ctx (b : BufSel) (s : State) : (s.clearBuf b).ctx = s.ctx := rfl
@[simp] theorem clearBuf_inService (b : BufSel) (s : State) : (s.clearBuf b).inService = s.inService := rfl
@[simp] theorem clearBuf_presented (b : BufSel) (s : State) : (s.clearBuf b).presented = s.presented := rfl
@[simp] theorem clearBuf_schedule (b : BufSel) (s : State) : (s.clearBuf b).schedule = s.schedule := rfl
@[simp] theorem clearBuf_answers (b : BufSel) (s : State) : (s.clearBuf b).answers = s.answers := rfl
@[simp] theorem clearBuf_draws (b : BufSel) (s : State) : (s.clearBuf b).draws = s.draws := rfl
@[simp] theorem clearBuf_callsLeft (b : BufSel) (s : State) : (s.clearBuf b).callsLeft = s.callsLeft := rfl
@[simp] theorem clearBuf_apps (b : BufSel) (s : State) : (s.clearBuf b).apps = s.apps := rfl
@[simp] theorem clearBuf_trace (b : BufSel) (s : State) : (s.clearBuf b).trace = s.trace := rfl
@[simp] theorem clearBuf_results (b : BufSel) (s : State) : (s.clearBuf b).results = s.results := rfl
@[simp] theorem clearBuf_stop (b : BufSel) (s : State) : (s.clearBuf b).stop = s.stop := rfl

@[simp] theorem setOpen_cfg (b : Bool) (s : State) : (s.setOpen b).cfg = s.cfg := rfl
@[simp] theorem setOpen_tx (b : Bool) (s : State) : (s.setOpen b).tx = s.tx := rfl
@[simp] theorem setOpen_rx (b : Bool) (s : State) : (s.setOpen b).rx = s.rx := rfl
@[simp] theorem setOpen_targetAddress (b : Bool) (s : State) : (s.setOpen b).targetAddress = s.targetAddress := rfl
@[simp] theorem setOpen_transmissionOpen (b : Bool) (s : State) : (s.setOpen b).transmissionOpen = b := rfl
@[simp] theorem setOpen_activeClockRate (b : Bool) (s : State) : (s.setOpen b).activeClockRate = s.activeClockRate := rfl
@[simp] theorem setOpen_onReceiveHandler (b : Bool) (s : State) : (s.setOpen b).onReceiveHandler = s.onReceiveHandler := rfl
@[simp] theorem setOpen_onRequestHandler (b : Bool) (s : State) : (s.setOpen b).onRequestHandler = s.onRequestHandler := rfl
@[simp] theorem setOpen_ctx (b : Bool) (s : State) : (s.setOpen b).ctx = s.ctx := rfl
@[simp] theorem setOpen_inService (b : Bool) (s : State) : (s.setOpen b).inService = s.inService := rfl
@[simp] theorem setOpen_presented (b : Bool) (s : State) : (s.setOpen b).presented = s.presented := rfl
@[simp] theorem setOpen_schedule (b : Bool) (s : State) : (s.setOpen b).schedule = s.schedule := rfl
@[simp] theorem setOpen_answers (b : Bool) (s : State) : (s.setOpen b).answers = s.answers := rfl
@[simp] theorem setOpen_draws (b : Bool) (s : State) : (s.setOpen b).draws = s.draws := rfl
@[simp] theorem setOpen_callsLeft (b : Bool) (s : State) : (s.setOpen b).callsLeft = s.callsLeft := rfl
@[simp] theorem setOpen_apps (b : Bool) (s : State) : (s.setOpen b).apps = s.apps := rfl
@[simp] theorem setOpen_trace (b : Bool) (s : State) : (s.setOpen b).trace = s.trace := rfl
@[simp] theorem setOpen_results (b : Bool) (s : State) : (s.setOpen b).results = s.results := rfl
@[simp] theorem setOpen_stop (b : Bool) (s : State) : (s.setOpen b).stop = s.stop := rfl

@[simp] theorem start_cfg (c : Ctx) (s : State) : (s.start c).cfg = s.cfg := rfl
@[simp] theorem start_tx (c : Ctx) (s : State) : (s.start c).tx = s.tx := rfl
@[simp] theorem start_rx (c : Ctx) (s : State) : (s.start c).rx = s.rx := rfl
@[simp] theorem start_targetAddress (c : Ctx) (s : State) : (s.start c).targetAddress = s.targetAddress := rfl
@[simp] theorem start_transmissionOpen (c : Ctx) (s : State) : (s.start c).transmissionOpen = s.transmissionOpen := rfl
@[simp] theorem start_activeClockRate (c : Ctx) (s : State) : (s.start c).activeClockRate = s.activeClockRate := rfl
@[simp] theorem start_onReceiveHandler (c : Ctx) (s : State) : (s.start c).onReceiveHandler = s.onReceiveHandler := rfl
@[simp] theorem start_onRequestHandler (c : Ctx) (s : State) : (s.start c).onRequestHandler = s.onRequestHandler := rfl
@[simp] theorem start_ctx (c : Ctx) (s : State) : (s.start c).ctx = c := rfl
@[simp] theorem start_inService (c : Ctx) (s : State) : (s.start c).inService = s.inService := rfl
@[simp] theorem start_presented (c : Ctx) (s : State) : (s.start c).presented = s.presented := rfl
@[simp] theorem start_schedule (c : Ctx) (s : State) : (s.start c).schedule = s.schedule := rfl
@[simp] theorem start_answers (c : Ctx) (s : State) : (s.start c).answers = s.answers := rfl
@[simp] theorem start_draws (c : Ctx) (s : State) : (s.start c).draws = s.draws := rfl
@[simp] theorem start_callsLeft (c : Ctx) (s : State) : (s.start c).callsLeft = s.callsLeft := rfl
@[simp] theorem start_apps (c : Ctx) (s : State) : (s.start c).apps = s.apps := rfl
@[simp] theorem start_trace (c : Ctx) (s : State) : (s.start c).trace = s.trace := rfl
@[simp] theorem start_results (c : Ctx) (s : State) : (s.start c).results = s.results := rfl
@[simp] theorem start_stop (c : Ctx) (s : State) : (s.start c).stop = none := rfl

@[simp] theorem goto_cfg (l : Label) (s : State) : (s.goto l).cfg = s.cfg := rfl
@[simp] theorem goto_tx (l : Label) (s : State) : (s.goto l).tx = s.tx := rfl
@[simp] theorem goto_rx (l : Label) (s : State) : (s.goto l).rx = s.rx := rfl
@[simp] theorem goto_targetAddress (l : Label) (s : State) : (s.goto l).targetAddress = s.targetAddress := rfl
@[simp] theorem goto_transmissionOpen (l : Label) (s : State) : (s.goto l).transmissionOpen = s.transmissionOpen := rfl
@[simp] theorem goto_activeClockRate (l : Label) (s : State) : (s.goto l).activeClockRate = s.activeClockRate := rfl
@[simp] theorem goto_onReceiveHandler (l : Label) (s : State) : (s.goto l).onReceiveHandler = s.onReceiveHandler := rfl
@[simp] theorem goto_onRequestHandler (l : Label) (s : State) : (s.goto l).onRequestHandler = s.onRequestHandler := rfl
@[simp] theorem goto_ctx (l : Label) (s : State) : (s.goto l).ctx = { s.ctx with seq := l } := rfl
@[simp] theorem goto_inService (l : Label) (s : State) : (s.goto l).inService = s.inService := rfl
@[simp] theorem goto_presented (l : Label) (s : State) : (s.goto l).presented = s.presented := rfl
@[simp] theorem goto_schedule (l : Label) (s : State) : (s.goto l).schedule = s.schedule := rfl
@[simp] theorem goto_answers (l : Label) (s : State) : (s.goto l).answers = s.answers := rfl
@[simp] theorem goto_draws (l : Label) (s : State) : (s.goto l).draws = s.draws := rfl
@[simp] theorem goto_callsLeft (l : Label) (s : State) : (s.goto l).callsLeft = s.callsLeft := rfl
@[simp] theorem goto_apps (l : Label) (s : State) : (s.goto l).apps = s.apps := rfl
@[simp] theorem goto_trace (l : Label) (s : State) : (s.goto l).trace = s.trace := rfl
@[simp] theorem goto_results (l : Label) (s : State) : (s.goto l).results = s.results := rfl
@[simp] theorem goto_stop (l : Label) (s : State) : (s.goto l).stop = s.stop := rfl

@[simp] theorem returnHost_cfg (v : Word) (s : State) : (s.returnHost v).cfg = s.cfg := rfl
@[simp] theorem returnHost_tx (v : Word) (s : State) : (s.returnHost v).tx = s.tx := rfl
@[simp] theorem returnHost_rx (v : Word) (s : State) : (s.returnHost v).rx = s.rx := rfl
@[simp] theorem returnHost_targetAddress (v : Word) (s : State) : (s.returnHost v).targetAddress = s.targetAddress := rfl
@[simp] theorem returnHost_transmissionOpen (v : Word) (s : State) : (s.returnHost v).transmissionOpen = s.transmissionOpen := rfl
@[simp] theorem returnHost_activeClockRate (v : Word) (s : State) : (s.returnHost v).activeClockRate = s.activeClockRate := rfl
@[simp] theorem returnHost_onReceiveHandler (v : Word) (s : State) : (s.returnHost v).onReceiveHandler = s.onReceiveHandler := rfl
@[simp] theorem returnHost_onRequestHandler (v : Word) (s : State) : (s.returnHost v).onRequestHandler = s.onRequestHandler := rfl
@[simp] theorem returnHost_ctx (v : Word) (s : State) : (s.returnHost v).ctx = Ctx.idle := rfl
@[simp] theorem returnHost_inService (v : Word) (s : State) : (s.returnHost v).inService = s.inService := rfl
@[simp] theorem returnHost_presented (v : Word) (s : State) : (s.returnHost v).presented = s.presented := rfl
@[simp] theorem returnHost_schedule (v : Word) (s : State) : (s.returnHost v).schedule = s.schedule := rfl
@[simp] theorem returnHost_answers (v : Word) (s : State) : (s.returnHost v).answers = s.answers := rfl
@[simp] theorem returnHost_draws (v : Word) (s : State) : (s.returnHost v).draws = s.draws := rfl
@[simp] theorem returnHost_callsLeft (v : Word) (s : State) : (s.returnHost v).callsLeft = s.callsLeft := rfl
@[simp] theorem returnHost_apps (v : Word) (s : State) : (s.returnHost v).apps = s.apps := rfl
@[simp] theorem returnHost_trace (v : Word) (s : State) : (s.returnHost v).trace = s.trace := rfl
@[simp] theorem returnHost_results (v : Word) (s : State) : (s.returnHost v).results = s.results ++ [⟨.host, v⟩] := rfl
@[simp] theorem returnHost_stop (v : Word) (s : State) : (s.returnHost v).stop = s.stop := rfl

@[simp] theorem hang_cfg (s t : State) : (s.hang t).cfg = s.cfg := rfl
@[simp] theorem hang_tx (s t : State) : (s.hang t).tx = s.tx := rfl
@[simp] theorem hang_rx (s t : State) : (s.hang t).rx = s.rx := rfl
@[simp] theorem hang_targetAddress (s t : State) : (s.hang t).targetAddress = s.targetAddress := rfl
@[simp] theorem hang_transmissionOpen (s t : State) : (s.hang t).transmissionOpen = s.transmissionOpen := rfl
@[simp] theorem hang_activeClockRate (s t : State) : (s.hang t).activeClockRate = s.activeClockRate := rfl
@[simp] theorem hang_onReceiveHandler (s t : State) : (s.hang t).onReceiveHandler = s.onReceiveHandler := rfl
@[simp] theorem hang_onRequestHandler (s t : State) : (s.hang t).onRequestHandler = s.onRequestHandler := rfl
@[simp] theorem hang_inService (s t : State) : (s.hang t).inService = s.inService := rfl
@[simp] theorem hang_presented (s t : State) : (s.hang t).presented = s.presented := rfl
@[simp] theorem hang_schedule (s t : State) : (s.hang t).schedule = s.schedule := rfl
@[simp] theorem hang_answers (s t : State) : (s.hang t).answers = s.answers := rfl
@[simp] theorem hang_draws (s t : State) : (s.hang t).draws = s.draws := rfl
@[simp] theorem hang_apps (s t : State) : (s.hang t).apps = s.apps := rfl
@[simp] theorem hang_results (s t : State) : (s.hang t).results = s.results := rfl
@[simp] theorem hang_stop (s t : State) : (s.hang t).stop = s.stop := rfl
@[simp] theorem hang_ctx (s t : State) : (s.hang t).ctx = { s.ctx with hung := true } := rfl
@[simp] theorem hang_callsLeft (s t : State) : (s.hang t).callsLeft = t.callsLeft := rfl
@[simp] theorem hang_trace (s t : State) : (s.hang t).trace = t.trace := rfl

@[simp] theorem enterService_cfg (s : State) : s.enterService.cfg = s.cfg := rfl
@[simp] theorem enterService_tx (s : State) : s.enterService.tx = s.tx := rfl
@[simp] theorem enterService_rx (s : State) : s.enterService.rx = s.rx := rfl
@[simp] theorem enterService_targetAddress (s : State) : s.enterService.targetAddress = s.targetAddress := rfl
@[simp] theorem enterService_transmissionOpen (s : State) : s.enterService.transmissionOpen = s.transmissionOpen := rfl
@[simp] theorem enterService_activeClockRate (s : State) : s.enterService.activeClockRate = s.activeClockRate := rfl
@[simp] theorem enterService_onReceiveHandler (s : State) : s.enterService.onReceiveHandler = s.onReceiveHandler := rfl
@[simp] theorem enterService_onRequestHandler (s : State) : s.enterService.onRequestHandler = s.onRequestHandler := rfl
@[simp] theorem enterService_ctx (s : State) : s.enterService.ctx = s.ctx := rfl
@[simp] theorem enterService_inService (s : State) : s.enterService.inService = true := rfl
@[simp] theorem enterService_presented (s : State) : s.enterService.presented = s.presented := rfl
@[simp] theorem enterService_schedule (s : State) : s.enterService.schedule = s.schedule := rfl
@[simp] theorem enterService_answers (s : State) : s.enterService.answers = s.answers := rfl
@[simp] theorem enterService_draws (s : State) : s.enterService.draws = s.draws := rfl
@[simp] theorem enterService_callsLeft (s : State) : s.enterService.callsLeft = s.callsLeft := rfl
@[simp] theorem enterService_apps (s : State) : s.enterService.apps = s.apps := rfl
@[simp] theorem enterService_trace (s : State) : s.enterService.trace = s.trace := rfl
@[simp] theorem enterService_results (s : State) : s.enterService.results = s.results := rfl
@[simp] theorem enterService_stop (s : State) : s.enterService.stop = s.stop := rfl

@[simp] theorem leaveService_cfg (s : State) : s.leaveService.cfg = s.cfg := rfl
@[simp] theorem leaveService_tx (s : State) : s.leaveService.tx = s.tx := rfl
@[simp] theorem leaveService_rx (s : State) : s.leaveService.rx = s.rx := rfl
@[simp] theorem leaveService_targetAddress (s : State) : s.leaveService.targetAddress = s.targetAddress := rfl
@[simp] theorem leaveService_transmissionOpen (s : State) : s.leaveService.transmissionOpen = s.transmissionOpen := rfl
@[simp] theorem leaveService_activeClockRate (s : State) : s.leaveService.activeClockRate = s.activeClockRate := rfl
@[simp] theorem leaveService_onReceiveHandler (s : State) : s.leaveService.onReceiveHandler = s.onReceiveHandler := rfl
@[simp] theorem leaveService_onRequestHandler (s : State) : s.leaveService.onRequestHandler = s.onRequestHandler := rfl
@[simp] theorem leaveService_ctx (s : State) : s.leaveService.ctx = s.ctx := rfl
@[simp] theorem leaveService_inService (s : State) : s.leaveService.inService = false := rfl
@[simp] theorem leaveService_presented (s : State) : s.leaveService.presented = s.presented := rfl
@[simp] theorem leaveService_schedule (s : State) : s.leaveService.schedule = s.schedule := rfl
@[simp] theorem leaveService_answers (s : State) : s.leaveService.answers = s.answers := rfl
@[simp] theorem leaveService_draws (s : State) : s.leaveService.draws = s.draws := rfl
@[simp] theorem leaveService_callsLeft (s : State) : s.leaveService.callsLeft = s.callsLeft := rfl
@[simp] theorem leaveService_apps (s : State) : s.leaveService.apps = s.apps := rfl
@[simp] theorem leaveService_trace (s : State) : s.leaveService.trace = s.trace := rfl
@[simp] theorem leaveService_results (s : State) : s.leaveService.results = s.results ++ [⟨.event, 0⟩] := rfl
@[simp] theorem leaveService_stop (s : State) : s.leaveService.stop = s.stop := rfl

@[simp] theorem askFlag_cfg (c : Bool → Call) (s : State) : (s.askFlag c).2.cfg = s.cfg := rfl
@[simp] theorem askFlag_tx (c : Bool → Call) (s : State) : (s.askFlag c).2.tx = s.tx := rfl
@[simp] theorem askFlag_rx (c : Bool → Call) (s : State) : (s.askFlag c).2.rx = s.rx := rfl
@[simp] theorem askFlag_targetAddress (c : Bool → Call) (s : State) : (s.askFlag c).2.targetAddress = s.targetAddress := rfl
@[simp] theorem askFlag_transmissionOpen (c : Bool → Call) (s : State) : (s.askFlag c).2.transmissionOpen = s.transmissionOpen := rfl
@[simp] theorem askFlag_activeClockRate (c : Bool → Call) (s : State) : (s.askFlag c).2.activeClockRate = s.activeClockRate := rfl
@[simp] theorem askFlag_onReceiveHandler (c : Bool → Call) (s : State) : (s.askFlag c).2.onReceiveHandler = s.onReceiveHandler := rfl
@[simp] theorem askFlag_onRequestHandler (c : Bool → Call) (s : State) : (s.askFlag c).2.onRequestHandler = s.onRequestHandler := rfl
@[simp] theorem askFlag_ctx (c : Bool → Call) (s : State) : (s.askFlag c).2.ctx = s.ctx := rfl
@[simp] theorem askFlag_inService (c : Bool → Call) (s : State) : (s.askFlag c).2.inService = s.inService := rfl
@[simp] theorem askFlag_presented (c : Bool → Call) (s : State) : (s.askFlag c).2.presented = s.presented := rfl
@[simp] theorem askFlag_schedule (c : Bool → Call) (s : State) : (s.askFlag c).2.schedule = s.schedule := rfl
@[simp] theorem askFlag_answers (c : Bool → Call) (s : State) : (s.askFlag c).2.answers = s.answers.tail := rfl
@[simp] theorem askFlag_draws (c : Bool → Call) (s : State) : (s.askFlag c).2.draws = s.draws + 1 := rfl
@[simp] theorem askFlag_apps (c : Bool → Call) (s : State) : (s.askFlag c).2.apps = s.apps := rfl
@[simp] theorem askFlag_trace (c : Bool → Call) (s : State) : (s.askFlag c).2.trace = s.trace ++ [s.entry (c s.nextDraw.flag)] := rfl
@[simp] theorem askFlag_results (c : Bool → Call) (s : State) : (s.askFlag c).2.results = s.results := rfl

@[simp] theorem askByte_cfg (c : Byte → Call) (s : State) : (s.askByte c).2.cfg = s.cfg := rfl
@[simp] theorem askByte_tx (c : Byte → Call) (s : State) : (s.askByte c).2.tx = s.tx := rfl
@[simp] theorem askByte_rx (c : Byte → Call) (s : State) : (s.askByte c).2.rx = s.rx := rfl
@[simp] theorem askByte_targetAddress (c : Byte → Call) (s : State) : (s.askByte c).2.targetAddress = s.targetAddress := rfl
@[simp] theorem askByte_transmissionOpen (c : Byte → Call) (s : State) : (s.askByte c).2.transmissionOpen = s.transmissionOpen := rfl
@[simp] theorem askByte_activeClockRate (c : Byte → Call) (s : State) : (s.askByte c).2.activeClockRate = s.activeClockRate := rfl
@[simp] theorem askByte_onReceiveHandler (c : Byte → Call) (s : State) : (s.askByte c).2.onReceiveHandler = s.onReceiveHandler := rfl
@[simp] theorem askByte_onRequestHandler (c : Byte → Call) (s : State) : (s.askByte c).2.onRequestHandler = s.onRequestHandler := rfl
@[simp] theorem askByte_ctx (c : Byte → Call) (s : State) : (s.askByte c).2.ctx = s.ctx := rfl
@[simp] theorem askByte_inService (c : Byte → Call) (s : State) : (s.askByte c).2.inService = s.inService := rfl
@[simp] theorem askByte_presented (c : Byte → Call) (s : State) : (s.askByte c).2.presented = s.presented := rfl
@[simp] theorem askByte_schedule (c : Byte → Call) (s : State) : (s.askByte c).2.schedule = s.schedule := rfl
@[simp] theorem askByte_answers (c : Byte → Call) (s : State) : (s.askByte c).2.answers = s.answers.tail := rfl
@[simp] theorem askByte_draws (c : Byte → Call) (s : State) : (s.askByte c).2.draws = s.draws + 1 := rfl
@[simp] theorem askByte_apps (c : Byte → Call) (s : State) : (s.askByte c).2.apps = s.apps := rfl
@[simp] theorem askByte_trace (c : Byte → Call) (s : State) : (s.askByte c).2.trace = s.trace ++ [s.entry (c s.nextDraw.byte)] := rfl
@[simp] theorem askByte_results (c : Byte → Call) (s : State) : (s.askByte c).2.results = s.results := rfl

@[simp] theorem storeByte_cfg (b : BufSel) (v : Byte) (s : State) : (s.storeByte b v).2.cfg = s.cfg := rfl
@[simp] theorem storeByte_targetAddress (b : BufSel) (v : Byte) (s : State) : (s.storeByte b v).2.targetAddress = s.targetAddress := rfl
@[simp] theorem storeByte_transmissionOpen (b : BufSel) (v : Byte) (s : State) : (s.storeByte b v).2.transmissionOpen = s.transmissionOpen := rfl
@[simp] theorem storeByte_activeClockRate (b : BufSel) (v : Byte) (s : State) : (s.storeByte b v).2.activeClockRate = s.activeClockRate := rfl
@[simp] theorem storeByte_onReceiveHandler (b : BufSel) (v : Byte) (s : State) : (s.storeByte b v).2.onReceiveHandler = s.onReceiveHandler := rfl
@[simp] theorem storeByte_onRequestHandler (b : BufSel) (v : Byte) (s : State) : (s.storeByte b v).2.onRequestHandler = s.onRequestHandler := rfl
@[simp] theorem storeByte_ctx (b : BufSel) (v : Byte) (s : State) : (s.storeByte b v).2.ctx = s.ctx := rfl
@[simp] theorem storeByte_inService (b : BufSel) (v : Byte) (s : State) : (s.storeByte b v).2.inService = s.inService := rfl
@[simp] theorem storeByte_presented (b : BufSel) (v : Byte) (s : State) : (s.storeByte b v).2.presented = s.presented := rfl
@[simp] theorem storeByte_schedule (b : BufSel) (v : Byte) (s : State) : (s.storeByte b v).2.schedule = s.schedule := rfl
@[simp] theorem storeByte_answers (b : BufSel) (v : Byte) (s : State) : (s.storeByte b v).2.answers = s.answers := rfl
@[simp] theorem storeByte_draws (b : BufSel) (v : Byte) (s : State) : (s.storeByte b v).2.draws = s.draws := rfl
@[simp] theorem storeByte_callsLeft (b : BufSel) (v : Byte) (s : State) : (s.storeByte b v).2.callsLeft = s.callsLeft := rfl
@[simp] theorem storeByte_apps (b : BufSel) (v : Byte) (s : State) : (s.storeByte b v).2.apps = s.apps := rfl
@[simp] theorem storeByte_trace (b : BufSel) (v : Byte) (s : State) : (s.storeByte b v).2.trace = s.trace := rfl
@[simp] theorem storeByte_results (b : BufSel) (v : Byte) (s : State) : (s.storeByte b v).2.results = s.results := rfl
@[simp] theorem storeByte_stop (b : BufSel) (v : Byte) (s : State) : (s.storeByte b v).2.stop = s.stop := rfl

@[simp] theorem readByte_cfg (b : BufSel) (s : State) : (s.readByte b).2.cfg = s.cfg := rfl
@[simp] theorem readByte_targetAddress (b : BufSel) (s : State) : (s.readByte b).2.targetAddress = s.targetAddress := rfl
@[simp] theorem readByte_transmissionOpen (b : BufSel) (s : State) : (s.readByte b).2.transmissionOpen = s.transmissionOpen := rfl
@[simp] theorem readByte_activeClockRate (b : BufSel) (s : State) : (s.readByte b).2.activeClockRate = s.activeClockRate := rfl
@[simp] theorem readByte_onReceiveHandler (b : BufSel) (s : State) : (s.readByte b).2.onReceiveHandler = s.onReceiveHandler := rfl
@[simp] theorem readByte_onRequestHandler (b : BufSel) (s : State) : (s.readByte b).2.onRequestHandler = s.onRequestHandler := rfl
@[simp] theorem readByte_ctx (b : BufSel) (s : State) : (s.readByte b).2.ctx = s.ctx := rfl
@[simp] theorem readByte_inService (b : BufSel) (s : State) : (s.readByte b).2.inService = s.inService := rfl
@[simp] theorem readByte_presented (b : BufSel) (s : State) : (s.readByte b).2.presented = s.presented := rfl
@[simp] theorem readByte_schedule (b : BufSel) (s : State) : (s.readByte b).2.schedule = s.schedule := rfl
@[simp] theorem readByte_answers (b : BufSel) (s : State) : (s.readByte b).2.answers = s.answers := rfl
@[simp] theorem readByte_draws (b : BufSel) (s : State) : (s.readByte b).2.draws = s.draws := rfl
@[simp] theorem readByte_callsLeft (b : BufSel) (s : State) : (s.readByte b).2.callsLeft = s.callsLeft := rfl
@[simp] theorem readByte_apps (b : BufSel) (s : State) : (s.readByte b).2.apps = s.apps := rfl
@[simp] theorem readByte_trace (b : BufSel) (s : State) : (s.readByte b).2.trace = s.trace := rfl
@[simp] theorem readByte_results (b : BufSel) (s : State) : (s.readByte b).2.results = s.results := rfl
@[simp] theorem readByte_stop (b : BufSel) (s : State) : (s.readByte b).2.stop = s.stop := rfl

@[simp] theorem askFlag_fst (c : Bool → Call) (s : State) : (s.askFlag c).1 = s.nextDraw.flag := rfl
@[simp] theorem askByte_fst (c : Byte → Call) (s : State) : (s.askByte c).1 = s.nextDraw.byte := rfl
@[simp] theorem storeByte_fst (b : BufSel) (v : Byte) (s : State) : (s.storeByte b v).1 = ((s.buf b).store s.cfg.nCap v).1 := rfl
@[simp] theorem readByte_fst (b : BufSel) (s : State) : (s.readByte b).1 = (s.buf b).c.head? := rfl

@[simp] theorem storeByte_tx_tx (v : Byte) (s : State) : (s.storeByte .tx v).2.tx = (s.tx.store s.cfg.nCap v).2 := rfl
@[simp] theorem storeByte_tx_rx (v : Byte) (s : State) : (s.storeByte .tx v).2.rx = s.rx := rfl
@[simp] theorem storeByte_rx_tx (v : Byte) (s : State) : (s.storeByte .rx v).2.tx = s.tx := rfl
@[simp] theorem storeByte_rx_rx (v : Byte) (s : State) : (s.storeByte .rx v).2.rx = (s.rx.store s.cfg.nCap v).2 := rfl
@[simp] theorem readByte_tx_tx (s : State) : (s.readByte .tx).2.tx = s.tx.read.2 := rfl
@[simp] theorem readByte_tx_rx (s : State) : (s.readByte .tx).2.rx = s.rx := rfl
@[simp] theorem readByte_rx_tx (s : State) : (s.readByte .rx).2.tx = s.tx := rfl
@[simp] theorem readByte_rx_rx (s : State) : (s.readByte .rx).2.rx = s.rx.read.2 := rfl
@[simp] theorem clearBuf_tx_tx (s : State) : (s.clearBuf .tx).tx = s.tx.clear := rfl
@[simp] theorem clearBuf_tx_rx (s : State) : (s.clearBuf .tx).rx = s.rx := rfl
@[simp] theorem clearBuf_rx_tx (s : State) : (s.clearBuf .rx).tx = s.tx := rfl
@[simp] theorem clearBuf_rx_rx (s : State) : (s.clearBuf .rx).rx = s.rx.clear := rfl
@[simp] theorem buf_tx (s : State) : s.buf .tx = s.tx := rfl
@[simp] theorem buf_rx (s : State) : s.buf .rx = s.rx := rfl
@[simp] theorem buf_setBuf_self (b : BufSel) (r : Ring) (s : State) : (s.setBuf b r).buf b = r := by cases b <;> rfl
theorem buf_setBuf_other (b b' : BufSel) (h : b' ≠ b) (r : Ring) (s : State) : (s.setBuf b r).buf b' = s.buf b' := by
  cases b <;> cases b' <;> first | rfl | exact absurd rfl h

@[simp] theorem request_entry (c : Call) (s : State) : (s.entry c).request = c.request := by
  unfold State.entry
  split <;> rfl

/-- A call that hangs leaves its request in the event history, and no answer. -/
theorem entry_hangs (c : Call) (s : State) (rest : List Nat) (h : s.callsLeft = 0 :: rest) :
    s.entry c = .unreturned c.request := by
  simp [State.entry, State.nextCallHangs, h]

/-- Where every call returns (law L4), a call is only recorded. -/
theorem call_returns (c : Call) (s : State) (h : s.callsLeft = []) : s.call c = s.record c := by
  simp [State.call, State.record, State.entry, State.nextCallHangs, spendCall, h]

theorem call_callsLeft_returns (c : Call) (s : State) (h : s.callsLeft = []) : (s.call c).callsLeft = [] := by
  rw [call_returns c s h]
  exact h

theorem call_stop_returns (c : Call) (s : State) (h : s.callsLeft = []) : (s.call c).stop = s.stop := by
  rw [call_returns c s h]
  rfl

theorem askFlag_callsLeft_returns (c : Bool → Call) (s : State) (h : s.callsLeft = []) :
    (s.askFlag c).2.callsLeft = [] := call_callsLeft_returns _ _ h

theorem askFlag_stop_returns (c : Bool → Call) (s : State) (h : s.callsLeft = []) : (s.askFlag c).2.stop = s.stop :=
  call_stop_returns _ s.dropDraw h

theorem askByte_callsLeft_returns (c : Byte → Call) (s : State) (h : s.callsLeft = []) :
    (s.askByte c).2.callsLeft = [] := call_callsLeft_returns _ _ h

theorem askByte_stop_returns (c : Byte → Call) (s : State) (h : s.callsLeft = []) : (s.askByte c).2.stop = s.stop :=
  call_stop_returns _ s.dropDraw h

/-- The scripted answer is taken as long as there is one. -/
theorem nextDraw_cons (s : State) (d : Draw) (ds : List Draw) (h : s.answers = d :: ds) : s.nextDraw = d := by
  simp [State.nextDraw, h]

/-- The ownership test changes nothing but the list of answers and the local `d` (R129). -/
theorem ownerOk_sampled (s : State) (h : s.ctx.sampled = true) : s.ownerOk = (!s.ctx.ownerLost, s) := by
  simp [State.ownerOk, h]

theorem ownerOk_retained (s : State) (h : s.ctx.sampled = false) (hr : s.cfg.ownerUnsampled = .retained) :
    s.ownerOk = (true, s) := by
  simp [State.ownerOk, h, hr]

end Sys2Proof.Machine.State
end

