-- ==== Sys2Proof/Laws/Inputs.lean ====
section
/-! SUPPORT. In a well-behaved state (every call returns, every callback presents admitted commands and returns) no command
meets a stop: every action keeps the state well-behaved. So `outcome` may answer a next state there without looking. -/

namespace Sys2Proof.Machine

theorem State.wellBehaved_iff (s : State) : s.wellBehaved = true ↔
    s.stop = none ∧ s.callsLeft = [] ∧ ∀ r ∈ s.apps, r.returns = true ∧ ∀ c ∈ r.commands, c.admitted = true := by
  simp [State.wellBehaved, and_assoc]

/-- Well-behavedness reads three fields only. -/
theorem State.wellBehaved_congr {s t : State} (h : s.wellBehaved = true) (hs : t.stop = s.stop)
    (hc : t.callsLeft = s.callsLeft) (ha : t.apps = s.apps) : t.wellBehaved = true := by
  simpa [State.wellBehaved, hs, hc, ha] using h

theorem State.wellBehaved_call (c : Call) {s : State} (h : s.wellBehaved = true) : (s.call c).wellBehaved = true := by
  have hc := ((State.wellBehaved_iff s).mp h).2.1
  exact State.wellBehaved_congr h (State.call_stop_returns c s hc) (by rw [State.call_callsLeft_returns c s hc, hc]) rfl

theorem State.wellBehaved_askFlag (c : Bool → Call) {s : State} (h : s.wellBehaved = true) :
    (s.askFlag c).2.wellBehaved = true :=
  State.wellBehaved_call _ (State.wellBehaved_congr (t := s.dropDraw) h rfl rfl rfl)

theorem State.wellBehaved_askByte (c : Byte → Call) {s : State} (h : s.wellBehaved = true) :
    (s.askByte c).2.wellBehaved = true :=
  State.wellBehaved_call _ (State.wellBehaved_congr (t := s.dropDraw) h rfl rfl rfl)

theorem State.wellBehaved_ownerOk {s : State} (h : s.wellBehaved = true) : s.ownerOk.2.wellBehaved = true := by
  unfold State.ownerOk
  repeat' split
  all_goals exact h

/-- What one command of a callback may touch: the buffers and the results. -/
theorem appMeaning_frame {i : Instr} {f : State → State × Word} (h : appMeaning i = some f) (s : State) :
    (f s).1.stop = s.stop ∧ (f s).1.callsLeft = s.callsLeft ∧ (f s).1.apps = s.apps := by
  have bytes : ∀ (l : List Byte) (k : Word) (s : State), (writeBytesNow l k s).1.stop = s.stop
      ∧ (writeBytesNow l k s).1.callsLeft = s.callsLeft ∧ (writeBytesNow l k s).1.apps = s.apps := by
    intro l
    induction l with
    | nil => exact fun _ _ => ⟨rfl, rfl, rfl⟩
    | cons v rest ih =>
      intro k s
      unfold writeBytesNow
      repeat' split
      · exact ih _ _
      · exact ⟨rfl, rfl, rfl⟩
      · exact ⟨rfl, rfl, rfl⟩
  cases i with
  | writeByte v =>
    cases h
    unfold writeByteNow
    split <;> exact ⟨rfl, rfl, rfl⟩
  | writeBytes n l =>
    cases h
    exact bytes l 0 s
  | available => cases h; exact ⟨rfl, rfl, rfl⟩
  | read => cases h; exact ⟨rfl, rfl, rfl⟩
  | peek => cases h; exact ⟨rfl, rfl, rfl⟩
  | _ => cases h

theorem State.wellBehaved_appCommand {s : State} (h : s.wellBehaved = true) {c : Command} (hc : c.admitted = true) :
    (appCommand s c).wellBehaved = true := by
  unfold Command.admitted at hc
  unfold appCommand
  split at hc
  · cases hc
  · rename_i i hd
    obtain ⟨f, hf⟩ := Option.isSome_iff_exists.mp hc
    simp only [hf]
    obtain ⟨h1, h2, h3⟩ := appMeaning_frame hf s
    exact State.wellBehaved_congr h h1 h2 h3

theorem State.wellBehaved_foldl_appCommand (l : List Command) {s : State} (h : s.wellBehaved = true)
    (hl : ∀ c ∈ l, c.admitted = true) : (l.foldl appCommand s).wellBehaved = true := by
  induction l generalizing s with
  | nil => exact h
  | cons c rest ih =>
    exact ih (State.wellBehaved_appCommand h (hl c (by simp))) (fun x hx => hl x (by simp [hx]))

theorem State.wellBehaved_callback (c : Call) {s : State} (h : s.wellBehaved = true) : (s.callback c).wellBehaved = true := by
  unfold State.callback
  split
  · exact State.wellBehaved_congr h rfl rfl rfl
  · rename_i r rest happ
    have all := (State.wellBehaved_iff s).mp h
    have mine := all.2.2 r (by simp [happ])
    unfold runApp
    simp only [mine.1, ↓reduceIte]
    apply State.wellBehaved_foldl_appCommand _ _ mine.2
    exact (State.wellBehaved_iff _).mpr ⟨all.1, all.2.1, fun x hx => all.2.2 x (by simp_all)⟩

theorem State.wellBehaved_serviceCases (p : Snapshot) {s : State} (h : s.wellBehaved = true) :
    (serviceCases p s).wellBehaved = true := by
  have ack : ∀ {t : State}, t.wellBehaved = true → (ackEvent t).wellBehaved = true :=
    fun ht => State.wellBehaved_call _ (State.wellBehaved_call _ ht)
  unfold serviceCases
  split
  · unfold serviceStop
    refine State.wellBehaved_congr (s := if (ackEvent s).onReceiveHandler.registered then _ else _) ?_ rfl rfl rfl
    split
    · exact State.wellBehaved_callback _ (ack h)
    · exact ack h
  · split
    · unfold serviceAddress
      have opened : (((ackEvent s).clearBuf .tx).setOpen true).wellBehaved = true :=
        State.wellBehaved_congr (ack h) rfl rfl rfl
      cases p.rd
      · exact ack h
      · show (if _ then State.callback _ _ else _ : State).wellBehaved = true
        split
        · exact State.wellBehaved_callback _ opened
        · exact opened
    · repeat' split
      · unfold serviceSupply
        exact State.wellBehaved_congr (State.wellBehaved_askFlag
          (.sendByte ((s.readByte .tx).1.getD fillByte)) (s := (s.readByte .tx).2)
          (State.wellBehaved_congr h rfl rfl rfl)) rfl rfl rfl
      · unfold serviceTake
        apply State.wellBehaved_call
        split
        · exact State.wellBehaved_call _ h
        · exact State.wellBehaved_call _ (State.wellBehaved_congr (State.wellBehaved_askByte .receiveByte h) rfl rfl rfl)
      · exact h

theorem State.wellBehaved_serviceStep {s : State} (h : s.wellBehaved = true) : (serviceStep s).wellBehaved = true := by
  unfold serviceStep
  split
  · exact h
  · have entered : (s.enterService.askFlag .isSlaveMode).2.wellBehaved = true :=
      State.wellBehaved_askFlag _ (State.wellBehaved_congr (t := s.enterService) h rfl rfl rfl)
    refine State.wellBehaved_congr (s := if (s.enterService.askFlag .isSlaveMode).1 then _ else _) ?_ rfl rfl rfl
    split
    · apply State.wellBehaved_serviceCases
      unfold readSnapshot
      exact State.wellBehaved_askFlag _ (State.wellBehaved_askFlag _ (State.wellBehaved_askFlag _
        (State.wellBehaved_askFlag _ (State.wellBehaved_askFlag _ entered))))
    · exact entered

theorem State.wellBehaved_serviceSteps (n : Nat) {s : State} (h : s.wellBehaved = true) :
    (serviceSteps n s).wellBehaved = true := by
  induction n generalizing s with
  | zero => exact h
  | succ n ih => exact ih (State.wellBehaved_serviceStep h)

theorem State.wellBehaved_serviceSlot {s : State} (h : s.wellBehaved = true) : (serviceSlot s).wellBehaved = true := by
  unfold serviceSlot
  split
  · exact h
  · exact State.wellBehaved_serviceSteps _ (State.wellBehaved_congr h rfl rfl rfl)

/-- The ownership test meets no stop (R129). -/
theorem State.ownerOk_keeps (s : State) :
    s.ownerOk.2.stop = s.stop ∧ s.ownerOk.2.callsLeft = s.callsLeft ∧ s.ownerOk.2.apps = s.apps := by
  unfold State.ownerOk
  repeat' split
  all_goals exact ⟨rfl, rfl, rfl⟩

/-- Where every call returns (law L4), an action of the sequencer meets no stop. -/
theorem act_returns {s : State} (h : s.callsLeft = []) :
    (act s).stop = s.stop ∧ (act s).callsLeft = [] ∧ (act s).apps = s.apps := by
  unfold act
  split
  case h_1 => exact ⟨rfl, h, rfl⟩
  all_goals
    simp only [actM0, actM1, actS0, actS1, actK0, actK1, actK2, actK3, actN0, actZ0, actZ1, actZ2, actZClose, actB0, actB1,
      actB2, actW0, actW1, actX0, actX1, actX2, actX3, actE0, actE1, actE2, actE2Own, actE2Read, actE2Send, actE2Clear,
      actE4, actE5, actE6, actF0, actF1, actF2, actF3, actF3Store, actF4, actF4Own, actF5, actF5Receive, actF5Store, actF6,
      actF7, actF7Stop, actF8, actF9, actF10]
    (repeat' split) <;>
    simp [State.call_stop_returns, State.askFlag_stop_returns, State.askFlag_callsLeft_returns,
      State.askByte_stop_returns, State.askByte_callsLeft_returns, State.ownerOk_keeps, h, spendCall]

theorem State.wellBehaved_act {s : State} (h : s.wellBehaved = true) : (act s).wellBehaved = true := by
  have calls := ((State.wellBehaved_iff s).mp h).2.1
  obtain ⟨hs, hc, ha⟩ := act_returns calls
  exact State.wellBehaved_congr h hs (hc.trans calls.symm) ha

/-- Where every call returns and no stop has been met, the foreground's next action completes. -/
theorem advance_returns {s : State} (stop : s.stop = none) (calls : s.callsLeft = []) : advance s = act s := by
  simp [advance, stop, (act_returns calls).1]

theorem State.wellBehaved_run (n : Nat) {s : State} (h : s.wellBehaved = true) : (run n s).wellBehaved = true := by
  induction n generalizing s with
  | zero => exact h
  | succ n ih =>
    unfold run
    split
    · have slot := State.wellBehaved_serviceSlot h
      have both := (State.wellBehaved_iff _).mp slot
      rw [advance_returns both.1 both.2.1]
      exact ih (State.wellBehaved_act slot)
    · exact h

/-- Where the first branch of `outcome` is taken after a state that stayed well-behaved, the second one gives the same
answer: the branch decides no outcome. -/
theorem outcome_eq (before after : State) (h : before.wellBehaved = true → after.wellBehaved = true) :
    outcome before after =
      match after.stop with
      | none => .next after
      | some (.fault f) => .fault f
      | some (.refusal r) => .refused r := by
  unfold outcome
  split
  · rename_i hb
    rw [((State.wellBehaved_iff after).mp (h hb)).1]
  · rfl

theorem outcome_runCommand (s : State) :
    outcome s (runCommand s) =
      match (runCommand s).stop with
      | none => .next (runCommand s)
      | some (.fault f) => .fault f
      | some (.refusal r) => .refused r :=
  outcome_eq s _ (State.wellBehaved_run _)

theorem outcome_serviceStep (s : State) :
    outcome s (serviceStep s) =
      match (serviceStep s).stop with
      | none => .next (serviceStep s)
      | some (.fault f) => .fault f
      | some (.refusal r) => .refused r :=
  outcome_eq s _ State.wellBehaved_serviceStep

/-- If a command ends in a next state, that state is what its run gives. -/
theorem outcome_next {before after t : State} (h : outcome before after = .next t) : t = after := by
  unfold outcome at h
  repeat' split at h
  all_goals first | (injection h with h; exact h.symm) | cases h

end Sys2Proof.Machine
end

