-- ==== Sys2Proof/Laws/Ring.lean ====
section
/-! SUPPORT. What the buffer operations do to the sequence of a buffer (spec/40_ring_buffer.md R100 to R106), and that
each keeps the refinement of R108: the storage bytes behind the cursors are the sequence. -/

namespace Sys2Proof.Machine

theorem Ring.store_full (n : Nat) (v : Byte) (r : Ring) (h : r.c.length = n) : r.store n v = (false, r) := by
  simp [Ring.store, h]

theorem Ring.store_room (n : Nat) (v : Byte) (r : Ring) (h : r.c.length ≠ n) :
    r.store n v = (true, { c := r.c ++ [v], storage := r.storage.set r.head v, head := (r.head + 1) % n }) := by
  simp [Ring.store, h]

@[simp] theorem Ring.store_c (n : Nat) (v : Byte) (r : Ring) :
    (r.store n v).2.c = if r.c.length = n then r.c else r.c ++ [v] := by
  unfold Ring.store
  split <;> rfl

@[simp] theorem Ring.store_accepted (n : Nat) (v : Byte) (r : Ring) : (r.store n v).1 = !decide (r.c.length = n) := by
  unfold Ring.store
  split <;> simp_all

@[simp] theorem Ring.read_c (r : Ring) : r.read.2.c = r.c.tail := rfl
@[simp] theorem Ring.read_fst (r : Ring) : r.read.1 = r.c.head? := rfl
@[simp] theorem Ring.clear_c (r : Ring) : r.clear.c = [] := rfl

theorem Ring.store_wf (n : Nat) (v : Byte) (r : Ring) (h : r.wf n) : (r.store n v).2.wf n := by
  obtain ⟨hl, hs, hh, hb⟩ := h
  by_cases hf : r.c.length = n
  · rw [Ring.store_full n v r hf]
    exact ⟨hl, hs, hh, hb⟩
  · rw [Ring.store_room n v r hf]
    have hn : 0 < n := by omega
    refine ⟨by simp; omega, by simp [hs], Nat.mod_lt _ hn, ?_⟩
    intro i hi
    simp only [List.length_append, List.length_cons, List.length_nil] at hi
    have cyc : ((r.head + 1) % n + n - (r.c ++ [v]).length + i) % n = (r.head + n - r.c.length + i) % n := by
      simp only [List.length_append, List.length_cons, List.length_nil]
      by_cases hw : r.head + 1 = n
      · rw [hw, Nat.mod_self]
        have : r.head + n - r.c.length + i = 0 + n - (r.c.length + (0 + 1)) + i + n := by omega
        rw [this, Nat.add_mod_right]
      · have e : (r.head + 1) % n = r.head + 1 := Nat.mod_eq_of_lt (by omega)
        rw [e]
        congr 1
        omega
    rw [cyc]
    by_cases hlast : i = r.c.length
    · subst hlast
      have : (r.head + n - r.c.length + r.c.length) % n = r.head := by
        rw [Nat.sub_add_cancel (by omega), Nat.add_mod_right, Nat.mod_eq_of_lt hh]
      rw [this]
      simp [hs, hh]
    · have hi' : i < r.c.length := by omega
      have away : r.head ≠ (r.head + n - r.c.length + i) % n := by
        by_cases hge : r.c.length ≤ r.head + i
        · have e : r.head + n - r.c.length + i = (r.head + i - r.c.length) + n := by omega
          rw [e, Nat.add_mod_right, Nat.mod_eq_of_lt (by omega)]
          omega
        · rw [Nat.mod_eq_of_lt (by omega)]
          omega
      simp only [List.getElem?_set, away, ↓reduceIte]
      rw [hb i hi', List.getElem?_append_left hi']

theorem Ring.read_wf (n : Nat) (r : Ring) (h : r.wf n) : r.read.2.wf n := by
  obtain ⟨hl, hs, hh, hb⟩ := h
  refine ⟨by simp [Ring.read]; omega, hs, hh, ?_⟩
  intro i hi
  simp only [Ring.read, List.length_tail] at hi ⊢
  have := hb (i + 1) (by omega)
  rw [List.getElem?_tail, ← this]
  congr 2
  omega

theorem Ring.clear_wf (n : Nat) (r : Ring) (h : r.wf n) : r.clear.wf n :=
  ⟨by simp [Ring.clear], h.2.1, h.2.2.1, fun i hi => absurd hi (by simp [Ring.clear])⟩

/-- Every operation on a buffer of the block keeps both buffers well-formed. -/
theorem State.storeByte_ringsWf (b : BufSel) (v : Byte) (s : State) (h : s.ringsWf) : (s.storeByte b v).2.ringsWf := by
  cases b
  · exact ⟨Ring.store_wf _ v _ h.1, h.2⟩
  · exact ⟨h.1, Ring.store_wf _ v _ h.2⟩

theorem State.readByte_ringsWf (b : BufSel) (s : State) (h : s.ringsWf) : (s.readByte b).2.ringsWf := by
  cases b
  · exact ⟨Ring.read_wf _ _ h.1, h.2⟩
  · exact ⟨h.1, Ring.read_wf _ _ h.2⟩

theorem State.clearBuf_ringsWf (b : BufSel) (s : State) (h : s.ringsWf) : (s.clearBuf b).ringsWf := by
  cases b
  · exact ⟨Ring.clear_wf _ _ h.1, h.2⟩
  · exact ⟨h.1, Ring.clear_wf _ _ h.2⟩

/-- The buffers at creation are well-formed, whatever the capacity and the storage bytes. -/
theorem State.reset_ringsWf : State.reset.ringsWf := by
  have cap : 0 < Config.nCapAtReset := by unfold Config.nCapAtReset; omega
  constructor <;> exact ⟨by simp [State.reset, Ring.atReset], by simp [State.reset, Ring.atReset],
    by simpa [State.reset, Ring.atReset] using cap, fun i hi => absurd hi (by simp [State.reset, Ring.atReset])⟩

end Sys2Proof.Machine
end

