-- ==== Sys2Proof/Laws/Run.lean ====
section
/-! SUPPORT. How a command's run unfolds, and what no atomic action and no SERVICE step touches. -/

namespace Sys2Proof.Machine

@[simp] theorem serviceSlot_nil (s : State) (h : s.schedule = []) : serviceSlot s = s := by
  simp [serviceSlot, h]

@[simp] theorem run_zero (s : State) : run 0 s = s := rfl

theorem run_stopped (n : Nat) (s : State) (h : s.running = false) : run n s = s := by
  cases n <;> simp [run, h]

theorem run_succ (n : Nat) (s : State) (h : s.running = true) : run (n + 1) s = run n (advance (serviceSlot s)) := by
  simp [run, h]

/-- With no SERVICE step left to fall in, a running command's next state is its next action's. -/
theorem run_succ_quiet (n : Nat) (s : State) (h : s.running = true) (q : s.schedule = []) :
    run (n + 1) s = run n (advance s) := by
  rw [run_succ n s h, serviceSlot_nil s q]

/-- A run of `n + m` actions is a run of `n` and then one of `m`. -/
theorem run_add (n m : Nat) (s : State) : run (n + m) s = run m (run n s) := by
  induction n generalizing s with
  | zero => simp
  | succ n ih =>
    rw [Nat.succ_add]
    by_cases h : s.running = true
    · rw [run_succ _ s h, run_succ _ s h, ih]
    · rw [Bool.not_eq_true] at h
      rw [run_stopped _ s h, run_stopped _ s h, run_stopped _ s h]

/-- An induction over a command's run: what holds at its start and is kept by every SERVICE slot and every action holds at
its end. -/
theorem run_induction (P : State → Prop) (slot : ∀ s, P s → P (serviceSlot s)) (action : ∀ s, P s → P (advance s)) (n : Nat)
    (s : State) (h : P s) : P (run n s) := by
  induction n generalizing s with
  | zero => exact h
  | succ n ih =>
    unfold run
    split
    · exact ih _ (action _ (slot _ h))
    · exact h

/-- The same for the SERVICE steps of one slot. -/
theorem serviceSteps_induction (P : State → Prop) (step : ∀ s, P s → P (serviceStep s)) (n : Nat) (s : State) (h : P s) :
    P (serviceSteps n s) := by
  induction n generalizing s with
  | zero => exact h
  | succ n ih => exact ih _ (step _ h)

/-- What one command of a callback touches: `tx`, `rx`, and the results or the stop. -/
theorem appCommand_frame (s : State) (c : Command) :
    (appCommand s c).cfg = s.cfg ∧ (appCommand s c).targetAddress = s.targetAddress
      ∧ (appCommand s c).transmissionOpen = s.transmissionOpen ∧ (appCommand s c).activeClockRate = s.activeClockRate
      ∧ (appCommand s c).onReceiveHandler = s.onReceiveHandler ∧ (appCommand s c).onRequestHandler = s.onRequestHandler
      ∧ (appCommand s c).ctx = s.ctx ∧ (appCommand s c).inService = s.inService ∧ (appCommand s c).presented = s.presented
      ∧ (appCommand s c).schedule = s.schedule ∧ (appCommand s c).answers = s.answers ∧ (appCommand s c).draws = s.draws
      ∧ (appCommand s c).callsLeft = s.callsLeft ∧ (appCommand s c).apps = s.apps ∧ (appCommand s c).trace = s.trace := by
  have bytes : ∀ (l : List Byte) (k : Word) (s : State), ∃ r, (writeBytesNow l k s).1 = { s with tx := r } := by
    intro l
    induction l with
    | nil => exact fun _ s => ⟨s.tx, rfl⟩
    | cons v rest ih =>
      intro k s
      unfold writeBytesNow
      split
      · split
        · obtain ⟨r, hr⟩ := ih (k + 1) (s.storeByte .tx v).2
          exact ⟨r, by rw [hr]; rfl⟩
        · exact ⟨s.tx, rfl⟩
      · exact ⟨s.tx, rfl⟩
  unfold appCommand
  split
  · simp
  · rename_i i _
    cases i with
    | writeBytes n l =>
      obtain ⟨r, hr⟩ := bytes l (0#32) s
      simp [appMeaning, hr]
    | writeByte v => simp only [appMeaning, writeByteNow]; split <;> simp
    | available => simp [appMeaning, availableNow]
    | read => simp [appMeaning, readNow]
    | peek => simp [appMeaning, peekNow]
    | _ => simp [appMeaning]

end Sys2Proof.Machine
end

