-- ==== Sys2Proof/Laws/Service.lean ====
section
/-! SUPPORT. Everything a SERVICE step can do to the rest of the machine: it keeps the registers that only commands write,
the sequencer context and the inputs of the foreground, makes no configuration call and no bus stop, keeps the buffers
well-formed, and only adds to the event history and the results. -/

namespace Sys2Proof.Machine

@[simp] theorem configurationCalls_nil : configurationCalls [] = [] := rfl

@[simp] theorem configurationCalls_append (a b : List Call) :
    configurationCalls (a ++ b) = configurationCalls a ++ configurationCalls b := List.filter_append ..

/-- The calls SERVICE makes: neither configuration calls nor `issueBusStop`. -/
def Call.ofService (c : Call) : Prop := c.request.isConfiguration = false ∧ c.request ≠ .issueBusStop

/-- Calls of SERVICE hold no configuration call and no bus stop. -/
theorem ofService_calls {calls : List Call} (h : ∀ c ∈ calls, c.ofService) :
    configurationCalls calls = [] ∧ (calls.map Call.request).count .issueBusStop = 0 := by
  constructor
  · exact List.filter_eq_nil_iff.mpr fun c hc => by simp [(h c hc).1]
  · rw [List.count_eq_zero]
    intro hm
    obtain ⟨c, hc, hr⟩ := List.mem_map.mp hm
    exact (h c hc).2 hr

/-- From `s` to `t` the interrupt agent has done something. -/
structure Served (s t : State) : Prop where
  cfg : t.cfg = s.cfg
  targetAddress : t.targetAddress = s.targetAddress
  activeClockRate : t.activeClockRate = s.activeClockRate
  onReceiveHandler : t.onReceiveHandler = s.onReceiveHandler
  onRequestHandler : t.onRequestHandler = s.onRequestHandler
  ctx : t.ctx = s.ctx
  presented : t.presented = s.presented
  schedule : t.schedule = s.schedule
  trace : ∃ calls, t.trace = s.trace ++ calls ∧ ∀ c ∈ calls, c.ofService
  results : ∃ more, t.results = s.results ++ more
  rings : s.ringsWf → t.ringsWf

theorem Served.refl (s : State) : Served s s :=
  ⟨rfl, rfl, rfl, rfl, rfl, rfl, rfl, rfl, ⟨[], by simp⟩, ⟨[], by simp⟩, id⟩

theorem Served.trans {s t u : State} (h : Served s t) (k : Served t u) : Served s u where
  cfg := k.cfg.trans h.cfg
  targetAddress := k.targetAddress.trans h.targetAddress
  activeClockRate := k.activeClockRate.trans h.activeClockRate
  onReceiveHandler := k.onReceiveHandler.trans h.onReceiveHandler
  onRequestHandler := k.onRequestHandler.trans h.onRequestHandler
  ctx := k.ctx.trans h.ctx
  presented := k.presented.trans h.presented
  schedule := k.schedule.trans h.schedule
  trace := by
    obtain ⟨a, ha, oa⟩ := h.trace
    obtain ⟨b, hb, ob⟩ := k.trace
    exact ⟨a ++ b, by rw [hb, ha, List.append_assoc],
      fun c hc => (List.mem_append.mp hc).elim (oa c) (ob c)⟩
  results := by
    obtain ⟨a, ha⟩ := h.results
    obtain ⟨b, hb⟩ := k.results
    exact ⟨a ++ b, by rw [hb, ha, List.append_assoc]⟩
  rings := k.rings ∘ h.rings

theorem Served.call (s : State) {c : Call} (h : c.ofService) : Served s (s.call c) :=
  { Served.refl s with trace := ⟨[s.entry c], rfl, by simpa [Call.ofService] using h⟩ }

theorem Served.record (s : State) {c : Call} (h : c.ofService) : Served s (s.record c) :=
  { Served.refl s with trace := ⟨[c], rfl, by simpa using h⟩ }

theorem Served.askFlag (s : State) {c : Bool → Call} (h : ∀ b, (c b).ofService) : Served s (s.askFlag c).2 :=
  { Served.refl s with trace := ⟨[s.entry (c s.nextDraw.flag)], rfl, by simpa [Call.ofService] using h _⟩ }

theorem Served.askByte (s : State) {c : Byte → Call} (h : ∀ b, (c b).ofService) : Served s (s.askByte c).2 :=
  { Served.refl s with trace := ⟨[s.entry (c s.nextDraw.byte)], rfl, by simpa [Call.ofService] using h _⟩ }

theorem Served.store (sel : BufSel) (v : Byte) (s : State) : Served s (s.storeByte sel v).2 :=
  { Served.refl s with rings := State.storeByte_ringsWf sel v s }

theorem Served.read (sel : BufSel) (s : State) : Served s (s.readByte sel).2 :=
  { Served.refl s with rings := State.readByte_ringsWf sel s }

theorem Served.clear (sel : BufSel) (s : State) : Served s (s.clearBuf sel) :=
  { Served.refl s with rings := State.clearBuf_ringsWf sel s }

theorem Served.setOpen (b : Bool) (s : State) : Served s (s.setOpen b) := { Served.refl s with }

theorem Served.raiseStop (x : Stop) (s : State) : Served s (s.raiseStop x) := { Served.refl s with }

theorem Served.deliver (p : Port) (v : Word) (s : State) : Served s (s.deliver p v) :=
  { Served.refl s with results := ⟨[⟨p, v⟩], rfl⟩ }

theorem Served.writeBytesNow (l : List Byte) (k : Word) (s : State) : Served s (writeBytesNow l k s).1 := by
  induction l generalizing k s with
  | nil => exact Served.refl s
  | cons v rest ih =>
    unfold Machine.writeBytesNow
    split
    · split
      · exact (Served.store .tx v s).trans (ih _ _)
      · exact Served.refl s
    · exact Served.refl s

theorem Served.appMeaning {i : Instr} {f : State → State × Word} (h : appMeaning i = some f) (s : State) :
    Served s (f s).1 := by
  cases i with
  | writeByte v =>
    cases h
    unfold writeByteNow
    split
    · exact Served.store .tx v s
    · exact Served.refl s
  | writeBytes n l => cases h; exact Served.writeBytesNow l 0 s
  | available => cases h; exact Served.refl s
  | read => cases h; exact Served.read .rx s
  | peek => cases h; exact Served.refl s
  | _ => cases h

theorem Served.appCommand (s : State) (c : Command) : Served s (appCommand s c) := by
  unfold Machine.appCommand
  split
  · exact Served.raiseStop _ s
  · split
    · exact Served.raiseStop _ s
    · rename_i f hf
      exact (Served.appMeaning hf s).trans (Served.deliver _ _ _)

theorem Served.foldl_appCommand (l : List Command) (s : State) : Served s (l.foldl Machine.appCommand s) := by
  induction l generalizing s with
  | nil => exact Served.refl s
  | cons c rest ih => exact (Served.appCommand s c).trans (ih _)

theorem Served.callback (s : State) {c : Call} (h : c.ofService) : Served s (s.callback c) := by
  unfold State.callback
  split
  · exact Served.record s h
  · rename_i r rest _
    have popped : Served s { s.record c with apps := rest } := { Served.record s h with }
    unfold runApp
    refine popped.trans ?_
    split
    · exact Served.foldl_appCommand _ _
    · exact (Served.foldl_appCommand _ _).trans (Served.raiseStop _ _)

theorem Served.ackEvent (s : State) : Served s (ackEvent s) :=
  (Served.call s (c := .signalContinue) ⟨rfl, by simp [Call.request]⟩).trans (Served.call _ (c := .acknowledgeEvent) ⟨rfl, by simp [Call.request]⟩)

theorem Served.serviceStop (s : State) : Served s (serviceStop s) := by
  unfold Machine.serviceStop
  refine (Served.ackEvent s).trans (Served.trans ?_ (Served.clear .rx _))
  split
  · exact Served.callback _ ⟨rfl, by simp [Call.request]⟩
  · exact Served.refl _

theorem Served.serviceAddress (rd : Bool) (s : State) : Served s (serviceAddress rd s) := by
  unfold Machine.serviceAddress
  refine (Served.ackEvent s).trans ?_
  cases rd
  · exact Served.refl _
  · have opened := (Served.clear .tx (Machine.ackEvent s)).trans (Served.setOpen true _)
    show Served _ (if _ then State.callback _ _ else _)
    split
    · exact opened.trans (Served.callback _ (c := .callbackOnRequest _) ⟨rfl, by simp [Call.request]⟩)
    · exact opened

theorem Served.serviceSupply (s : State) : Served s (serviceSupply s) :=
  (Served.read .tx s).trans ((Served.askFlag _ (c := .sendByte _) fun _ => ⟨rfl, by simp [Call.request]⟩).trans (Served.setOpen _ _))

theorem Served.serviceTake (s : State) : Served s (serviceTake s) := by
  unfold Machine.serviceTake
  refine Served.trans ?_ (Served.call _ ⟨rfl, by simp [Call.request]⟩)
  split
  · exact Served.call s ⟨rfl, by simp [Call.request]⟩
  · exact (Served.askByte s (c := .receiveByte) fun _ => ⟨rfl, by simp [Call.request]⟩).trans
      ((Served.store .rx _ _).trans (Served.call _ ⟨rfl, by simp [Call.request]⟩))

theorem Served.serviceCases (p : Snapshot) (s : State) : Served s (serviceCases p s) := by
  unfold Machine.serviceCases
  repeat' split
  · exact Served.serviceStop s
  · exact Served.serviceAddress _ s
  · exact Served.serviceSupply s
  · exact Served.serviceTake s
  · exact Served.refl s

theorem Served.readSnapshot (s : State) : Served s (readSnapshot s).2 :=
  (Served.askFlag s (c := .isAddressMatched) fun _ => ⟨rfl, by simp [Call.request]⟩).trans
    ((Served.askFlag _ (c := .isStopSignaled) fun _ => ⟨rfl, by simp [Call.request]⟩).trans
      ((Served.askFlag _ (c := .isRestartSignaled) fun _ => ⟨rfl, by simp [Call.request]⟩).trans
        ((Served.askFlag _ (c := .isPeerRequestingRead) fun _ => ⟨rfl, by simp [Call.request]⟩).trans
          (Served.askFlag _ (c := .isByteReady) fun _ => ⟨rfl, by simp [Call.request]⟩))))

/-- What a SERVICE step can do. -/
theorem Served.serviceStep (s : State) : Served s (serviceStep s) := by
  unfold Machine.serviceStep
  split
  · exact Served.refl s
  · have entered : Served s (s.enterService.askFlag .isSlaveMode).2 :=
      Served.trans (t := s.enterService) { Served.refl s with } (Served.askFlag _ fun _ => ⟨rfl, by simp [Call.request]⟩)
    have left : ∀ u : State, Served u u.leaveService := fun u => { Served.deliver .event 0 u with }
    refine entered.trans (Served.trans ?_ (left _))
    split
    · exact (Served.readSnapshot _).trans (Served.serviceCases _ _)
    · exact Served.refl _

theorem Served.serviceSteps (n : Nat) (s : State) : Served s (serviceSteps n s) := by
  induction n generalizing s with
  | zero => exact Served.refl s
  | succ n ih => exact (Served.serviceStep s).trans (ih _)

/-- A SERVICE step leaves `inService` clear where it was clear. -/
theorem serviceStep_inService (s : State) (h : s.inService = false) : (serviceStep s).inService = false := by
  simp [Machine.serviceStep, h, State.leaveService]

theorem serviceSteps_inService (n : Nat) (s : State) (h : s.inService = false) : (serviceSteps n s).inService = false :=
  serviceSteps_induction (fun t => t.inService = false) serviceStep_inService n s h

/-- The SERVICE steps of one slot: they use up the slot's entry of the schedule, and do what SERVICE steps do. -/
theorem serviceSlot_served (s : State) : Served { s with schedule := s.schedule.tail } (serviceSlot s) := by
  unfold serviceSlot
  split
  · rename_i h
    have : ({ s with schedule := s.schedule.tail } : State) = s := by
      cases s
      simp_all
    rw [this]
    exact Served.refl s
  · rename_i n rest h
    rw [h]
    exact Served.serviceSteps n _

theorem serviceSlot_inService (s : State) (h : s.inService = false) : (serviceSlot s).inService = false := by
  unfold serviceSlot
  split
  · exact h
  · exact serviceSteps_inService _ _ h

end Sys2Proof.Machine

/-! Laws L2 and L3. -/

namespace Sys2Proof.Machine

@[simp] theorem slavePhase_nil : slavePhase [] = .off := rfl

@[simp] theorem slavePhase_snoc (calls : List Call) (c : Call) :
    slavePhase (calls ++ [c]) = (slavePhase calls).after c := by
  simp [slavePhase]

/-- Everything one call can do to the phase. -/
theorem SlavePhase.after_cases (p : SlavePhase) (c : Call) :
    p.after c = .off
      ∨ c.stopsEvents = false
        ∧ (p.after c = p ∨ c.configuresSlave = true ∧ p.after c = .configured
          ∨ c.request = .enable ∧ p = .configured ∧ p.after c = .serving) := by
  unfold SlavePhase.after
  repeat' split
  all_goals simp_all

theorem Call.configuresSlave_iff (c : Call) : c.configuresSlave = true ↔ ∃ a g, c = .configureAsSlave a g := by
  cases c <;> simp [configuresSlave]

/-- The peripheral has been configured as slave by one of these calls, and no later one has stopped it (R237). -/
def SlaveSince (calls rest : List Call) : Prop :=
  (∃ (before : List Call) (address : Byte) (gc : Bool), calls = before ++ .configureAsSlave address gc :: rest)
    ∧ ∀ c ∈ rest, c.stopsEvents = false

theorem SlaveSince.snoc {calls rest : List Call} (h : SlaveSince calls rest) {c : Call} (d : c.stopsEvents = false) :
    SlaveSince (calls ++ [c]) (rest ++ [c]) := by
  obtain ⟨⟨before, address, gc, e⟩, keep⟩ := h
  refine ⟨⟨before, address, gc, by simp [e]⟩, fun x hx => ?_⟩
  rcases List.mem_append.mp hx with old | new
  · exact keep x old
  · rw [List.mem_singleton.mp new]
    exact d

/-- In the phases other than `off` the peripheral is configured as slave and has not been stopped; when it is serving, it
has been enabled since. -/
theorem slavePhase_since (calls : List Call) :
    (slavePhase calls = .configured → ∃ rest, SlaveSince calls rest)
      ∧ (slavePhase calls = .serving → ∃ rest, SlaveSince calls rest ∧ ∃ c ∈ rest, c.request = .enable) := by
  induction calls using List.reverseRecOn with
  | nil => simp
  | append_singleton calls c ih =>
    rw [slavePhase_snoc]
    rcases (slavePhase calls).after_cases c with stopped | ⟨d, same | ⟨configures, e⟩ | ⟨enables, was, e⟩⟩
    · simp [stopped]
    · rw [same]
      exact ⟨fun p => (ih.1 p).imp' (· ++ [c]) fun _ h => h.snoc d,
        fun p => (ih.2 p).imp' (· ++ [c]) fun _ ⟨h, x, hx, hr⟩ => ⟨h.snoc d, x, by simp [hx], hr⟩⟩
    · obtain ⟨a, g, rfl⟩ := (Call.configuresSlave_iff c).mp configures
      rw [e]
      exact ⟨fun _ => ⟨[], ⟨calls, a, g, rfl⟩, by simp⟩, by simp⟩
    · rw [e]
      obtain ⟨rest, h⟩ := ih.1 was
      exact ⟨by simp, fun _ => ⟨rest ++ [c], h.snoc d, c, by simp, enables⟩⟩

/-- The calls of a SERVICE step in slave mode show its snapshot, whatever follows. -/
theorem snapshotOf_snapshotCalls (p : Snapshot) (rest : List Call) : snapshotOf (snapshotCalls p ++ rest) = some p := rfl

/-- R262 under law L2: before every SERVICE step, BEGIN_SLAVE has configured the peripheral as slave and then enabled it, and
no call has stopped it since. -/
theorem SlaveEvents.begun {history : List Call} (h : SlaveEvents history) {i : Nat} {c : Call}
    (at_ : history[i]? = some c) (service : c.request = .isSlaveMode) :
    ∃ rest, SlaveSince (history.take i) rest ∧ ∃ x ∈ rest, x.request = .enable :=
  (slavePhase_since _).2 (h i c at_ service).2

end Sys2Proof.Machine

/-! SERVICE and the sequencer context: every operation of the interrupt agent does the same whatever the context is. -/

namespace Sys2Proof.Machine

/-- A state with another sequencer context. -/
def State.withCtx (c : Ctx) (s : State) : State := { s with ctx := c }

theorem writeBytesNow_withCtx (l : List Byte) (k : Word) (c : Ctx) (s : State) :
    writeBytesNow l k (s.withCtx c) = ((writeBytesNow l k s).1.withCtx c, (writeBytesNow l k s).2) := by
  induction l generalizing k s with
  | nil => rfl
  | cons v rest ih =>
    have stored : ((s.withCtx c).storeByte .tx v).2 = ((s.storeByte .tx v).2).withCtx c := rfl
    have told : ((s.withCtx c).storeByte .tx v).1 = (s.storeByte .tx v).1 := rfl
    have flag : (s.withCtx c).transmissionOpen = s.transmissionOpen := rfl
    unfold writeBytesNow
    rw [flag, told, stored, ih]
    repeat' split
    all_goals rfl

theorem appMeaning_withCtx {i : Instr} {f : State → State × Word} (h : appMeaning i = some f) (c : Ctx) (s : State) :
    f (s.withCtx c) = ((f s).1.withCtx c, (f s).2) := by
  cases i with
  | writeByte v =>
    cases h
    have flag : (s.withCtx c).transmissionOpen = s.transmissionOpen := rfl
    unfold writeByteNow
    rw [flag]
    split <;> rfl
  | writeBytes n l => cases h; exact writeBytesNow_withCtx l 0 c s
  | available => cases h; rfl
  | read => cases h; rfl
  | peek => cases h; rfl
  | _ => cases h

theorem appCommand_withCtx (x : Command) (c : Ctx) (s : State) :
    appCommand (s.withCtx c) x = (appCommand s x).withCtx c := by
  unfold appCommand
  split
  · rfl
  · split
    · rfl
    · rename_i f hf
      rw [appMeaning_withCtx hf]
      rfl

theorem foldl_appCommand_withCtx (l : List Command) (c : Ctx) (s : State) :
    l.foldl appCommand (s.withCtx c) = (l.foldl appCommand s).withCtx c := by
  induction l generalizing s with
  | nil => rfl
  | cons x rest ih => rw [List.foldl_cons, appCommand_withCtx, ih, List.foldl_cons]

theorem callback_withCtx (x : Call) (c : Ctx) (s : State) : (s.withCtx c).callback x = (s.callback x).withCtx c := by
  have same : (s.withCtx c).apps = s.apps := rfl
  unfold State.callback
  rw [same]
  split
  · rfl
  · rename_i r rest _
    have popped : ({ (s.withCtx c).record x with apps := rest } : State)
        = State.withCtx c { s.record x with apps := rest } := rfl
    rw [popped]
    unfold runApp
    simp only [foldl_appCommand_withCtx]
    split <;> rfl

theorem serviceCases_withCtx (p : Snapshot) (c : Ctx) (s : State) :
    serviceCases p (s.withCtx c) = (serviceCases p s).withCtx c := by
  have acked : ackEvent (s.withCtx c) = (ackEvent s).withCtx c := rfl
  unfold serviceCases
  split
  · unfold serviceStop
    rw [acked]
    show State.clearBuf .rx (if (ackEvent s).onReceiveHandler.registered then _ else _) = _
    by_cases h : (ackEvent s).onReceiveHandler.registered = true
    · simp only [h, ↓reduceIte]
      exact congrArg (State.clearBuf .rx) (callback_withCtx _ c _)
    · simp only [h, Bool.false_eq_true, ↓reduceIte]
      rfl
  · split
    · unfold serviceAddress
      rw [acked]
      cases p.rd
      · rfl
      · show (if (ackEvent s).onRequestHandler.registered then _ else _)
          = State.withCtx c (if (ackEvent s).onRequestHandler.registered then _ else _)
        by_cases h : (ackEvent s).onRequestHandler.registered = true
        · simp only [h, ↓reduceIte]
          exact callback_withCtx _ c (((ackEvent s).clearBuf .tx).setOpen true)
        · simp only [h, Bool.false_eq_true, ↓reduceIte]
          rfl
    · split
      · split
        · rfl
        · have full : (s.withCtx c).rx.isFull (s.withCtx c).cfg.nCap = s.rx.isFull s.cfg.nCap := rfl
          unfold serviceTake
          rw [full]
          split <;> rfl
      · rfl

/-- A SERVICE step does the same whatever the sequencer context is, and leaves it as it is. -/
theorem serviceStep_withCtx (c : Ctx) (s : State) : serviceStep (s.withCtx c) = (serviceStep s).withCtx c := by
  have busy : (s.withCtx c).inService = s.inService := rfl
  have asked : (s.withCtx c).enterService.askFlag .isSlaveMode
      = ((s.enterService.askFlag .isSlaveMode).1, (s.enterService.askFlag .isSlaveMode).2.withCtx c) := rfl
  have read : ∀ t : State, readSnapshot (t.withCtx c) = ((readSnapshot t).1, (readSnapshot t).2.withCtx c) := fun _ => rfl
  unfold serviceStep
  rw [busy, asked]
  split
  · rfl
  · simp only [read, serviceCases_withCtx]
    split <;> rfl

end Sys2Proof.Machine
end

