-- ==== Sys2Proof/Laws/Act.lean ====
section
/-! SUPPORT. Everything one atomic action of the sequencer can do to the rest of the machine, and that a command ends:
every command that starts is at a return within `commandFuel` actions, whatever SERVICE steps fall between them. -/

namespace Sys2Proof.Machine

@[simp] theorem State.ownerOk_cfg (s : State) : s.ownerOk.2.cfg = s.cfg := by
  unfold State.ownerOk
  repeat' split
  all_goals rfl

@[simp] theorem State.ownerOk_tx (s : State) : s.ownerOk.2.tx = s.tx := by
  unfold State.ownerOk
  repeat' split
  all_goals rfl

@[simp] theorem State.ownerOk_rx (s : State) : s.ownerOk.2.rx = s.rx := by
  unfold State.ownerOk
  repeat' split
  all_goals rfl

@[simp] theorem State.ownerOk_targetAddress (s : State) : s.ownerOk.2.targetAddress = s.targetAddress := by
  unfold State.ownerOk
  repeat' split
  all_goals rfl

@[simp] theorem State.ownerOk_transmissionOpen (s : State) : s.ownerOk.2.transmissionOpen = s.transmissionOpen := by
  unfold State.ownerOk
  repeat' split
  all_goals rfl

@[simp] theorem State.ownerOk_activeClockRate (s : State) : s.ownerOk.2.activeClockRate = s.activeClockRate := by
  unfold State.ownerOk
  repeat' split
  all_goals rfl

@[simp] theorem State.ownerOk_onReceiveHandler (s : State) : s.ownerOk.2.onReceiveHandler = s.onReceiveHandler := by
  unfold State.ownerOk
  repeat' split
  all_goals rfl

@[simp] theorem State.ownerOk_onRequestHandler (s : State) : s.ownerOk.2.onRequestHandler = s.onRequestHandler := by
  unfold State.ownerOk
  repeat' split
  all_goals rfl

@[simp] theorem State.ownerOk_inService (s : State) : s.ownerOk.2.inService = s.inService := by
  unfold State.ownerOk
  repeat' split
  all_goals rfl

@[simp] theorem State.ownerOk_presented (s : State) : s.ownerOk.2.presented = s.presented := by
  unfold State.ownerOk
  repeat' split
  all_goals rfl

@[simp] theorem State.ownerOk_schedule (s : State) : s.ownerOk.2.schedule = s.schedule := by
  unfold State.ownerOk
  repeat' split
  all_goals rfl

@[simp] theorem State.ownerOk_callsLeft (s : State) : s.ownerOk.2.callsLeft = s.callsLeft := by
  unfold State.ownerOk
  repeat' split
  all_goals rfl

@[simp] theorem State.ownerOk_apps (s : State) : s.ownerOk.2.apps = s.apps := by
  unfold State.ownerOk
  repeat' split
  all_goals rfl

@[simp] theorem State.ownerOk_trace (s : State) : s.ownerOk.2.trace = s.trace := by
  unfold State.ownerOk
  repeat' split
  all_goals rfl

@[simp] theorem State.ownerOk_results (s : State) : s.ownerOk.2.results = s.results := by
  unfold State.ownerOk
  repeat' split
  all_goals rfl

@[simp] theorem State.ownerOk_stop (s : State) : s.ownerOk.2.stop = s.stop := by
  unfold State.ownerOk
  repeat' split
  all_goals rfl

/-- The ownership test writes no local but the draw `d`. -/
theorem State.ownerOk_ctx (s : State) : ∃ d, s.ownerOk.2.ctx = { s.ctx with d := d } := by
  unfold State.ownerOk
  repeat' split
  all_goals exact ⟨_, rfl⟩

/-- From `s` to `t` the sequencer has done one atomic action. -/
structure Acted (s t : State) : Prop where
  cfg : t.cfg = s.cfg
  targetAddress : t.targetAddress = if s.ctx.seq = .b0 then s.ctx.addr else s.targetAddress
  activeClockRate : t.activeClockRate = if s.ctx.seq = .k0 then s.ctx.rate else s.activeClockRate
  onReceiveHandler : t.onReceiveHandler = s.onReceiveHandler
  onRequestHandler : t.onRequestHandler = s.onRequestHandler
  inService : t.inService = s.inService
  presented : t.presented = s.presented
  schedule : t.schedule = s.schedule
  apps : t.apps = s.apps
  trace : ∃ calls, t.trace = s.trace ++ calls
  results : t.results = s.results ∨ ∃ v, t.ctx = Ctx.idle ∧ t.results = s.results ++ [⟨.host, v⟩]
  rings : s.ringsWf → t.ringsWf

/-- The buffers stay well-formed where neither is touched. -/
theorem State.ringsWf_congr {s t : State} (hc : t.cfg = s.cfg) (htx : t.tx = s.tx) (hrx : t.rx = s.rx) (h : s.ringsWf) :
    t.ringsWf := by
  unfold State.ringsWf at *
  rwa [hc, htx, hrx]

/-- What one atomic action of the sequencer can do. -/
theorem act_acted (s : State) : Acted s (act s) := by
  cases hl : s.ctx.seq <;> simp only [act, hl]
  case idle => exact ⟨rfl, by simp [hl], by simp [hl], rfl, rfl, rfl, rfl, rfl, rfl, ⟨[], by simp⟩, .inl rfl, id⟩
  all_goals
    simp only [actM0, actM1, actS0, actS1, actK0, actK1, actK2, actK3, actN0, actZ0, actZ1, actZ2, actZClose, actB0, actB1,
      actB2, actW0, actW1, actX0, actX1, actX2, actX3, actE0, actE1, actE2, actE2Own, actE2Read, actE2Send, actE2Clear,
      actE4, actE5, actE6, actF0, actF1, actF2, actF3, actF3Store, actF4, actF4Own, actF5, actF5Receive, actF5Store, actF6,
      actF7, actF7Stop, actF8, actF9, actF10]
    repeat' split
    all_goals
      refine ⟨by simp, by simp [hl], by simp [hl], by simp, by simp, by simp, by simp, by simp, by simp, by simp, by simp, ?_⟩
      first
      | (refine State.ringsWf_congr ?_ ?_ ?_ <;> simp <;> done)
      | exact fun h => State.clearBuf_ringsWf .tx s h
      | exact fun h => State.clearBuf_ringsWf .rx s h
      | exact fun h => State.readByte_ringsWf .tx s h
      | exact fun h => State.storeByte_ringsWf .tx _ s h
      | exact fun h => State.storeByte_ringsWf .rx _ s h

/-- Everything the foreground agent's next action can be: it completes; or a stop met in a SERVICE step keeps it from
starting; or its call never returns, and it leaves only that call in the event history (R202). In the last two the command
runs no further. -/
theorem advance_cases (s : State) :
    advance s = act s
      ∨ (advance s).running = false ∧ (advance s = s ∧ s.stop.isSome = true
          ∨ advance s = s.hang (act s) ∧ (act s).stop.isSome = true) := by
  by_cases met : s.stop.isSome = true
  · have e : advance s = s := by simp [advance, met]
    exact .inr ⟨by rw [e]; simp [State.running, Option.isNone_eq_false_iff.mpr met], .inl ⟨e, met⟩⟩
  · by_cases hangs : (act s).stop.isSome = true
    · have e : advance s = s.hang (act s) := by simp [advance, met, hangs]
      exact .inr ⟨by rw [e]; simp [State.running], .inr ⟨e, hangs⟩⟩
    · exact .inl (by simp [advance, met, hangs])

/-! ## A command ends -/

/-- At most how many actions are left of the command at this label, when no SERVICE step falls in: the loops of R127, R128
and R140 once for each byte left to store, to send or to receive. -/
def rank (s : State) : Nat :=
  match s.ctx.seq with
  | .idle => 0
  | .m1 | .s1 | .k3 | .n0 | .b2 | .w1 | .zClose | .e6 | .f9 => 1
  | .m0 | .s0 | .k2 | .b1 | .w0 | .z2 => 2
  | .k1 | .b0 | .z1 => 3
  | .k0 | .z0 => 4
  | .x0 => 3 * s.ctx.count.toNat + 2
  | .x1 => 3 * (s.ctx.count.toNat - s.ctx.k.toNat) + 1
  | .x2 => 3 * (s.ctx.count.toNat - s.ctx.k.toNat)
  | .x3 => 3 * (s.ctx.count.toNat - s.ctx.k.toNat) - 1
  | .e0 => 4 * s.tx.c.length + 11
  | .e1 => 4 * s.tx.c.length + 10
  | .e2 => 4 * s.tx.c.length + 9
  | .e2Own => 4 * s.tx.c.length + 8
  | .e2Read => 4 * s.tx.c.length + 7
  | .e2Send => 4 * s.tx.c.length + 10
  | .e2Clear => 7
  | .e4 => 6
  | .e5 => 5
  | .f0 => 5 * s.ctx.q.toNat + 10
  | .f1 => 5 * s.ctx.q.toNat + 9
  | .f2 => 5 * s.ctx.q.toNat + 8
  | .f3 => 5 * s.ctx.q.toNat + 7
  | .f3Store => 5 * s.ctx.q.toNat + 6
  | .f4 => 5 * (s.ctx.q.toNat - s.ctx.n.toNat) + 9
  | .f4Own => 5 * (s.ctx.q.toNat - s.ctx.n.toNat) + 8
  | .f5 => 5 * (s.ctx.q.toNat - s.ctx.n.toNat) + 7
  | .f5Receive => 5 * (s.ctx.q.toNat - s.ctx.n.toNat) + 6
  | .f5Store => 5 * (s.ctx.q.toNat - s.ctx.n.toNat) + 5
  | .f6 => 8
  | .f7 => 7
  | .f7Stop => 6
  | .f8 => 5
  | .f10 => 5

/-- What holds of the locals at the labels of a loop, in every command that started at its first label: the counters have
not passed their ends. -/
def OnCourse (c : Ctx) : Prop :=
  match c.seq with
  | .x1 => c.k.toNat ≤ c.count.toNat
  | .x2 | .x3 => c.k.toNat < c.count.toNat
  | .f1 | .f2 | .f3 | .f3Store => 0 < c.q.toNat
  | .f4 => c.n.toNat ≤ c.q.toNat
  | .f4Own | .f5 | .f5Receive | .f5Store => c.n.toNat < c.q.toNat
  | _ => True

/-- The action of a running command on course keeps it on course, under the same operands, and its rank falls. -/
theorem act_rank (s : State) (h : OnCourse s.ctx) (idle : s.ctx.seq ≠ .idle) :
    OnCourse (act s).ctx ∧ rank (act s) < rank s
      ∧ ((act s).ctx.seq = .idle ∨ (act s).ctx.q = s.ctx.q ∧ (act s).ctx.count = s.ctx.count) := by
  obtain ⟨d, hd⟩ := s.ownerOk_ctx
  obtain ⟨d', hd'⟩ := (s.call .signalStop).ownerOk_ctx
  have hcount := s.ctx.count.isLt
  have hq := s.ctx.q.isLt
  have kEnd : ¬s.ctx.k = s.ctx.count → s.ctx.k.toNat ≠ s.ctx.count.toNat := fun x y => x (BitVec.eq_of_toNat_eq y)
  have nEnd : ¬s.ctx.n = s.ctx.q → s.ctx.n.toNat ≠ s.ctx.q.toNat := fun x y => x (BitVec.eq_of_toNat_eq y)
  have qZero : ¬s.ctx.q = 0 → s.ctx.q.toNat ≠ 0 := fun x y => x (BitVec.eq_of_toNat_eq y)
  have held : ¬(s.readByte .tx).1.isNone = true → 0 < s.tx.c.length := by
    cases hc : s.tx.c <;> simp [hc]
  cases hl : s.ctx.seq <;> simp only [act, hl]
  case idle => exact absurd hl idle
  all_goals
    simp only [OnCourse, hl] at h
    simp only [actM0, actM1, actS0, actS1, actK0, actK1, actK2, actK3, actN0, actZ0, actZ1, actZ2, actZClose, actB0, actB1,
      actB2, actW0, actW1, actX0, actX1, actX2, actX3, actE0, actE1, actE2, actE2Own, actE2Read, actE2Send, actE2Clear,
      actE4, actE5, actE6, actF0, actF1, actF2, actF3, actF3Store, actF4, actF4Own, actF5, actF5Receive, actF5Store, actF6,
      actF7, actF7Stop, actF8, actF9, actF10]
    repeat' split
    all_goals try simp [OnCourse, rank, hl, hd, hd', Ctx.idle]
  all_goals
    first
    | omega
    | (have := kEnd ‹_›; omega)
    | (have := nEnd ‹_›; omega)
    | (have := qZero ‹_›; omega)
    | (have := held ‹_›; omega)

/-- The rank is bounded by what the fuel counts. -/
theorem rank_le (s : State) : rank s ≤ 4 * s.tx.c.length + 5 * s.ctx.q.toNat + 3 * s.ctx.count.toNat + 11 := by
  unfold rank
  split <;> omega

/-- With no SERVICE step left to fall in, a command on course is at its return, or has met a stop or a hang, after `rank` actions. -/
theorem run_ends_quiet (n : Nat) (s : State) (h : OnCourse s.ctx) (q : s.schedule = []) (hn : rank s ≤ n) :
    (run n s).running = false := by
  induction n generalizing s with
  | zero =>
    have zero : rank s = 0 := by omega
    by_cases hi : s.ctx.seq = .idle
    · simp [State.running, hi]
    · have := (act_rank s h hi).2.1
      omega
  | succ n ih =>
    by_cases hr : s.running = true
    · have hi : s.ctx.seq ≠ .idle := by
        intro hi
        simp [State.running, hi] at hr
      obtain ⟨course, less, _⟩ := act_rank s h hi
      rw [run_succ_quiet n s hr q]
      rcases advance_cases s with e | ⟨halted, _⟩
      · rw [e]
        exact ih _ course ((act_acted s).schedule.trans q) (by omega)
      · rw [run_stopped n _ halted, halted]
    · rw [Bool.not_eq_true] at hr
      rw [run_stopped _ s hr, hr]

/-- A command on course, with both buffers well-formed, is at its return, or has met a stop or a hang, after as many actions as its
schedule and its operands count, whatever SERVICE steps fall between them. -/
theorem run_ends (n : Nat) (s : State) (h : OnCourse s.ctx) (rings : s.ringsWf)
    (hn : s.schedule.length + (4 * s.cfg.nCap + 5 * s.ctx.q.toNat + 3 * s.ctx.count.toNat + 11) ≤ n) :
    (run n s).running = false := by
  induction n generalizing s with
  | zero => omega
  | succ n ih =>
    cases hs : s.schedule with
    | nil =>
      apply run_ends_quiet _ s h hs
      have := rank_le s
      have := rings.1.1
      simp only [hs, List.length_nil] at hn
      omega
    | cons k rest =>
      by_cases hr : s.running = true
      · have served := serviceSlot_served s
        have acted := act_acted (serviceSlot s)
        have ctx : (serviceSlot s).ctx = s.ctx := served.ctx
        have course : OnCourse (serviceSlot s).ctx := by rw [ctx]; exact h
        have hi : (serviceSlot s).ctx.seq ≠ .idle := by
          intro hi
          rw [ctx] at hi
          simp [State.running, hi] at hr
        have wf : (act (serviceSlot s)).ringsWf := acted.rings (served.rings rings)
        have hsched : (act (serviceSlot s)).schedule = rest := by rw [acted.schedule, served.schedule]; simp [hs]
        have hcap : (act (serviceSlot s)).cfg = s.cfg := acted.cfg.trans served.cfg
        obtain ⟨course', _, operands⟩ := act_rank _ course hi
        rw [run_succ n s hr]
        rcases advance_cases (serviceSlot s) with e | ⟨halted, _⟩
        case inr => rw [run_stopped n _ halted, halted]
        rw [e]
        rcases operands with done | ⟨hq, hc⟩
        · rw [run_stopped n _ (by simp [State.running, done])]
          simp [State.running, done]
        · rw [ctx] at hq hc
          apply ih _ course' wf
          rw [hsched, hcap, hq, hc]
          simp only [hs, List.length_cons] at hn
          omega
      · rw [Bool.not_eq_true] at hr
        rw [run_stopped _ s hr, hr]

/-- `commandFuel` is enough. -/
theorem runCommand_ends (s : State) (h : OnCourse s.ctx) (rings : s.ringsWf) : (runCommand s).running = false := by
  apply run_ends _ s h rings
  unfold commandFuel
  omega

/-- More fuel than enough changes nothing. -/
theorem run_enough (n m : Nat) (s : State) (h : (run n s).running = false) (hm : n ≤ m) : run m s = run n s := by
  obtain ⟨k, rfl⟩ := Nat.exists_eq_add_of_le hm
  rw [run_add, run_stopped k _ h]

end Sys2Proof.Machine
end

