-- ==== Sys2Proof/Laws/Decode.lean ====
section
/-! SUPPORT. The fields of a laid-out command word, and how a mask meets a layout: what the round trips of the encoding
rest on. -/

namespace Sys2Proof.Laws

section Fields

variable (w : Word) (r : BitVec 8) (a : Byte) (q : BitVec 6) (s f : BitVec 1) (op : Byte)

theorem layout_W : (layout w r a q s f op).extractLsb' 32 32 = w := by
  apply BitVec.eq_of_getLsbD_eq
  intro i hi
  simp only [layout, BitVec.getLsbD_extractLsb', BitVec.getLsbD_cast, BitVec.getLsbD_append, hi, decide_true, Bool.true_and]
  (repeat' split) <;> first | (exfalso; omega) | (congr 1; omega)

theorem layout_r31 : (layout w r a q s f op).extractLsb' 24 8 = r := by
  apply BitVec.eq_of_getLsbD_eq
  intro i hi
  simp only [layout, BitVec.getLsbD_extractLsb', BitVec.getLsbD_cast, BitVec.getLsbD_append, hi, decide_true, Bool.true_and]
  (repeat' split) <;> first | (exfalso; omega) | (congr 1; omega)

theorem layout_A : (layout w r a q s f op).extractLsb' 16 8 = a := by
  apply BitVec.eq_of_getLsbD_eq
  intro i hi
  simp only [layout, BitVec.getLsbD_extractLsb', BitVec.getLsbD_cast, BitVec.getLsbD_append, hi, decide_true, Bool.true_and]
  (repeat' split) <;> first | (exfalso; omega) | (congr 1; omega)

theorem layout_r15 : (layout w r a q s f op).extractLsb' 10 6 = q := by
  apply BitVec.eq_of_getLsbD_eq
  intro i hi
  simp only [layout, BitVec.getLsbD_extractLsb', BitVec.getLsbD_cast, BitVec.getLsbD_append, hi, decide_true, Bool.true_and]
  (repeat' split) <;> first | (exfalso; omega) | (congr 1; omega)

theorem layout_S : (layout w r a q s f op).extractLsb' 9 1 = s := by
  apply BitVec.eq_of_getLsbD_eq
  intro i hi
  simp only [layout, BitVec.getLsbD_extractLsb', BitVec.getLsbD_cast, BitVec.getLsbD_append, hi, decide_true, Bool.true_and]
  (repeat' split) <;> first | (exfalso; omega) | (congr 1; omega)

theorem layout_F : (layout w r a q s f op).extractLsb' 8 1 = f := by
  apply BitVec.eq_of_getLsbD_eq
  intro i hi
  simp only [layout, BitVec.getLsbD_extractLsb', BitVec.getLsbD_cast, BitVec.getLsbD_append, hi, decide_true, Bool.true_and]
  (repeat' split) <;> first | (exfalso; omega) | (congr 1; omega)

theorem layout_OP : (layout w r a q s f op).extractLsb' 0 8 = op := by
  apply BitVec.eq_of_getLsbD_eq
  intro i hi
  simp only [layout, BitVec.getLsbD_extractLsb', BitVec.getLsbD_cast, BitVec.getLsbD_append, hi, decide_true, Bool.true_and]
  (repeat' split) <;> first | (exfalso; omega) | (congr 1; omega)

end Fields

/-- Every word is the layout of its own fields. -/
theorem layout_fields (w : CommandWord) :
    layout (w.extractLsb' 32 32) (w.extractLsb' 24 8) (w.extractLsb' 16 8) (w.extractLsb' 10 6) (w.extractLsb' 9 1)
      (w.extractLsb' 8 1) (w.extractLsb' 0 8) = w := by
  apply BitVec.eq_of_getLsbD_eq
  intro i hi
  simp only [layout, BitVec.getLsbD_cast, BitVec.getLsbD_append, BitVec.getLsbD_extractLsb']
  repeat' split
  all_goals (rw [decide_eq_true (by omega), Bool.true_and]; congr 1; omega)

/-- Two layouts are equal exactly when every field is. -/
theorem layout_inj {w w' : Word} {r r' : BitVec 8} {a a' : Byte} {q q' : BitVec 6} {s s' f f' : BitVec 1} {op op' : Byte} :
    layout w r a q s f op = layout w' r' a' q' s' f' op'
      ↔ w = w' ∧ r = r' ∧ a = a' ∧ q = q' ∧ s = s' ∧ f = f' ∧ op = op' := by
  constructor
  · intro h
    refine ⟨?_, ?_, ?_, ?_, ?_, ?_, ?_⟩
    · rw [← layout_W w r a q s f op, h, layout_W]
    · rw [← layout_r31 w r a q s f op, h, layout_r31]
    · rw [← layout_A w r a q s f op, h, layout_A]
    · rw [← layout_r15 w r a q s f op, h, layout_r15]
    · rw [← layout_S w r a q s f op, h, layout_S]
    · rw [← layout_F w r a q s f op, h, layout_F]
    · rw [← layout_OP w r a q s f op, h, layout_OP]
  · rintro ⟨rfl, rfl, rfl, rfl, rfl, rfl, rfl⟩
    rfl

/-- A mask acts on a layout field by field. -/
theorem layout_and (w w' : Word) (r r' : BitVec 8) (a a' : Byte) (q q' : BitVec 6) (s s' f f' : BitVec 1) (op op' : Byte) :
    layout w r a q s f op &&& layout w' r' a' q' s' f' op'
      = layout (w &&& w') (r &&& r') (a &&& a') (q &&& q') (s &&& s') (f &&& f') (op &&& op') := by
  apply BitVec.eq_of_getLsbD_eq
  intro i _
  simp only [layout, BitVec.getLsbD_and, BitVec.getLsbD_cast, BitVec.getLsbD_append]
  repeat' split
  all_goals rfl

section Pack

variable (op : Byte) (f : Bool) (s : BufSel) (a : Byte) (w : Word)

theorem opField_packFields : opField (packFields op f s a w) = op := layout_OP ..

theorem aField_packFields : aField (packFields op f s a w) = a := layout_A ..

theorem wField_packFields : wField (packFields op f s a w) = w := layout_W ..

theorem getLsbD_eq_extract (x : CommandWord) (k : Nat) : x.getLsbD k = (x.extractLsb' k 1).getLsbD 0 := by
  simp

theorem fField_packFields : fField (packFields op f s a w) = f := by
  rw [fField, getLsbD_eq_extract, packFields, layout_F]
  cases f <;> rfl

theorem sField_packFields : sField (packFields op f s a w) = s := by
  rw [sField, getLsbD_eq_extract, packFields, layout_S]
  cases s <;> rfl

end Pack

/-- The `OP` value of a row names that row. -/
theorem ofByte_op (o : Opcode) : Opcode.ofByte o.op = some o := by cases o <;> rfl

/-- A byte that names a row is the row's `OP` value. -/
theorem op_ofByte {b : Byte} {o : Opcode} (h : Opcode.ofByte b = some o) : o.op = b := by
  have := List.find?_some h
  simpa using this

/-- The mask of a row, field by field: every reserved field and `OP` is checked whole (R79). -/
def Opcode.layoutMask (o : Opcode) : Word × Byte × BitVec 1 × BitVec 1 :=
  (o.mask.extractLsb' 32 32, o.mask.extractLsb' 16 8, o.mask.extractLsb' 9 1, o.mask.extractLsb' 8 1)

theorem mask_layout (o : Opcode) :
    o.mask = layout (Opcode.layoutMask o).1 0xFF (Opcode.layoutMask o).2.1 0x3F (Opcode.layoutMask o).2.2.1
      (Opcode.layoutMask o).2.2.2 0xFF := by
  cases o <;> rfl

theorem pattern_layout (o : Opcode) : o.pattern = layout 0 0 0 0 0 0 o.op := by
  cases o <;> rfl

end Sys2Proof.Laws
end

