-- ==== Sys2Proof/Laws/Loops.lean ====
section
/-! SUPPORT. What the two transaction loops do when no SERVICE step falls in and every call returns: from the label of the
loop the sequencer reaches the label after it, having done what `sendLoop` and `receiveLoop` say of the bytes and the
answers. -/

namespace Sys2Proof.Machine

/-- No SERVICE step is left to fall in, every call returns, and no stop has been met. -/
structure State.Quiet (s : State) : Prop where
  schedule : s.schedule = []
  calls : s.callsLeft = []
  stop : s.stop = none
  free : s.ctx.hung = false

/-- The sequencer gets from `s` to `t` by its own actions. -/
def Reaches (s t : State) : Prop := ∃ n, run n s = t

theorem Reaches.refl (s : State) : Reaches s s := ⟨0, rfl⟩

theorem Reaches.trans {s t u : State} (h : Reaches s t) (k : Reaches t u) : Reaches s u := by
  obtain ⟨n, rfl⟩ := h
  obtain ⟨m, rfl⟩ := k
  exact ⟨n + m, run_add n m s⟩

theorem Reaches.act {s t : State} (q : s.Quiet) (i : s.ctx.seq ≠ .idle) (h : Machine.act s = t) : Reaches s t :=
  ⟨1, by rw [run_succ_quiet 0 s (by simp [State.running, i, q.stop, q.free]) q.schedule, run_zero,
    advance_returns q.stop q.calls, h]⟩

/-- Two runs from one state that are both over have the same end. -/
theorem run_over_unique {n m : Nat} {s : State} (hn : (run n s).running = false) (hm : (run m s).running = false) :
    run n s = run m s := by
  rcases Nat.le_total n m with h | h
  · exact (run_enough n m s hn h).symm
  · exact run_enough m n s hm h

/-- A command on course that reaches a state at rest ends there. -/
theorem runCommand_eq_of_reaches {s t : State} (h : Reaches s t) (rest : t.running = false) (course : OnCourse s.ctx)
    (rings : s.ringsWf) : runCommand s = t := by
  obtain ⟨n, rfl⟩ := h
  exact run_over_unique (runCommand_ends s course rings) rest

@[simp] theorem State.answer_asked (n i : Nat) (s : State) : (s.asked n).answer i = s.answer (n + i) := by
  simp [State.answer, State.asked, Nat.add_assoc]

theorem State.nextDraw_eq_answer (s : State) : s.nextDraw = s.answer 0 := by
  unfold State.nextDraw State.answer
  cases s.answers <;> rfl

theorem State.asked_asked (n m : Nat) (s : State) : (s.asked n).asked m = s.asked (n + m) := by
  simp [State.asked, Nat.add_assoc]

/-- A call in a quiet state only adds to the event history. -/
theorem State.Quiet.call_eq {s : State} (q : s.Quiet) (c : Call) : s.call c = { s with trace := s.trace ++ [c] } := by
  rw [State.call_returns c s q.calls]
  rfl

/-- A question in a quiet state takes one answer and adds one call to the event history. -/
theorem State.Quiet.askFlag_eq {s : State} (q : s.Quiet) (c : Bool → Call) :
    s.askFlag c = ((s.answer 0).flag, { s.asked 1 with trace := s.trace ++ [c (s.answer 0).flag] }) := by
  rw [State.askFlag, State.call_returns _ s.dropDraw q.calls, s.nextDraw_eq_answer]
  simp [State.record, State.dropDraw, State.asked]

theorem State.Quiet.askByte_eq {s : State} (q : s.Quiet) (c : Byte → Call) :
    s.askByte c = ((s.answer 0).byte, { s.asked 1 with trace := s.trace ++ [c (s.answer 0).byte] }) := by
  rw [State.askByte, State.call_returns _ s.dropDraw q.calls, s.nextDraw_eq_answer]
  simp [State.record, State.dropDraw, State.asked]

/-- The loop `E2` of R128 with no SERVICE step in it. -/
theorem reaches_sendLoop (a : Nat → Draw) (l : List Byte) (i : Nat) (s : State) (q : s.Quiet)
    (answers : ∀ j, s.answer j = a (i + j)) (label : s.ctx.seq = .e2) (bytes : s.tx.c = l) (short : l.length < 2 ^ 32)
    (err : s.ctx.err = .none) (lost : s.ctx.ownerLost = false) :
    i ≤ (sendLoop a l i).used
      ∧ ∃ c : Ctx,
        Reaches s { s.asked ((sendLoop a l i).used - i) with
          tx := { s.tx with c := (sendLoop a l i).bytes }
          trace := s.trace ++ (sendLoop a l i).calls
          ctx := c }
        ∧ c.seq = .e4 ∧ c.op = s.ctx.op ∧ c.stop = s.ctx.stop ∧ c.d = s.ctx.d
        ∧ c.err = (if (sendLoop a l i).failed then .dataNack else .none)
        ∧ c.ownerLost = (sendLoop a l i).ownerLost
        ∧ c.sampled = (s.ctx.sampled || sampledOwnership (sendLoop a l i).calls) := by
  induction l generalizing i s with
  | nil =>
    refine ⟨Nat.le_refl i, { s.ctx with k := 0, seq := .e4 }, ?_, rfl, rfl, rfl, rfl, err, lost, ?_⟩
    · refine Reaches.act q (by simp [label]) ?_
      simp [Machine.act, label, actE2, Ring.available, bytes, sendLoop, State.asked]
      rw [← bytes]
    · simp [sendLoop, sampledOwnership]
  | cons b rest ih =>
    have full : ¬ s.tx.available = 0#32 := by
      intro h
      have := congrArg BitVec.toNat h
      simp [Ring.available, bytes] at this
      simp at short
      omega
    have first : s.answer 0 = a i := answers 0
    have second : s.answer 1 = a (i + 1) := answers 1
    -- `k <- Available(tx)`
    let s1 : State := { s with ctx := { s.ctx with k := s.tx.available, seq := .e2Own } }
    have h1 : Reaches s s1 := Reaches.act q (by simp [label]) (by simp [Machine.act, label, actE2, full, s1])
    have q1 : s1.Quiet := ⟨q.schedule, q.calls, q.stop, q.free⟩
    have first1 : s1.answer 0 = a i := first
    cases own : (a i).flag with
    | false =>
      -- ownership lost
      refine ⟨by simp [sendLoop, own], { s1.ctx with own := false, sampled := true, ownerLost := true, seq := .e4 }, ?_⟩
      refine ⟨h1.trans (Reaches.act q1 (by simp [s1]) ?_), rfl, rfl, rfl, rfl, ?_, ?_, ?_⟩
      · show actE2Own s1 = _
        simp only [actE2Own, q1.askFlag_eq, first1, own]
        simp [sendLoop, own, State.asked, s1, ← bytes]
      · simp [s1, err, sendLoop, own]
      · simp [sendLoop, own]
      · simp [sendLoop, own, sampledOwnership]
    | true =>
      let s2 : State := { s1.asked 1 with
        trace := s.trace ++ [.hasBusOwnership true]
        ctx := { s1.ctx with own := true, sampled := true, seq := .e2Read } }
      have h2 : Reaches s1 s2 := by
        refine Reaches.act q1 (by simp [s1]) ?_
        show actE2Own s1 = _
        simp only [actE2Own, q1.askFlag_eq, first1, own]
        simp [State.asked, s1, s2]
      have q2 : s2.Quiet := ⟨q.schedule, q.calls, q.stop, q.free⟩
      -- `b <- Read(tx)`
      let s3 : State := { s2 with
        tx := { s.tx with c := rest }
        ctx := { s2.ctx with b := some b, seq := .e2Send } }
      have h3 : Reaches s2 s3 := by
        refine Reaches.act q2 (by simp [s2]) ?_
        show actE2Read s2 = _
        simp [actE2Read, State.readByte, State.setBuf, State.buf, Ring.read, s2, s3, s1, State.asked, bytes]
      have q3 : s3.Quiet := ⟨q.schedule, q.calls, q.stop, q.free⟩
      have second3 : s3.answer 0 = a (i + 1) := by
        rw [← second]
        exact State.answer_asked 1 0 s
      cases ack : (a (i + 1)).flag with
      | true =>
        let s4 : State := { s3.asked 1 with
          trace := s3.trace ++ [.sendByte b true]
          ctx := { s3.ctx with ack := true, seq := .e2 } }
        have h4 : Reaches s3 s4 := by
          refine Reaches.act q3 (by simp [s3]) ?_
          show actE2Send s3 = _
          simp only [actE2Send, q3.askFlag_eq, second3, ack]
          simp [State.asked, s3, s4]
        have later : ∀ j, s4.answer j = a (i + 2 + j) := by
          intro j
          have : ((s.asked 1).asked 1).answer j = a (i + 2 + j) := by
            rw [State.answer_asked, State.answer_asked, answers]
            congr 1
            omega
          exact this
        obtain ⟨le, c, reach, c1, c2, c3, c4, c5, c6, c7⟩ := ih (i + 2) s4 ⟨q.schedule, q.calls, q.stop, q.free⟩ later rfl rfl
          (by simp at short ⊢; omega) err lost
        have used : (sendLoop a (b :: rest) i).used = (sendLoop a rest (i + 2)).used := by simp [sendLoop, own, ack]
        have taken : 1 + (1 + ((sendLoop a rest (i + 2)).used - (i + 2))) = (sendLoop a rest (i + 2)).used - i := by omega
        refine ⟨by omega, c, ?_, c1, c2, c3, c4, ?_, ?_, ?_⟩
        · refine h1.trans (h2.trans (h3.trans (h4.trans ?_)))
          convert reach using 1
          simp only [State.asked, s4, s3, s2, s1, List.drop_drop, used, ← taken, ← Nat.add_assoc]
          simp [sendLoop, own, ack, Nat.add_comm, Nat.add_left_comm]
        · simpa [sendLoop, own, ack] using c5
        · simpa [sendLoop, own, ack] using c6
        · simpa [sendLoop, own, ack, sampledOwnership, s4, s3, s2] using c7
      | false =>
        let s4 : State := { s3.asked 1 with
          trace := s3.trace ++ [.sendByte b false]
          ctx := { s3.ctx with ack := false, err := .dataNack, seq := .e2Clear } }
        have h4 : Reaches s3 s4 := by
          refine Reaches.act q3 (by simp [s3]) ?_
          show actE2Send s3 = _
          simp only [actE2Send, q3.askFlag_eq, second3, ack]
          simp [State.asked, s3, s4]
        refine ⟨by simp [sendLoop, own, ack], { s4.ctx with seq := .e4 }, ?_, rfl, rfl, rfl, rfl, ?_, ?_, ?_⟩
        · refine h1.trans (h2.trans (h3.trans (h4.trans (Reaches.act ⟨q.schedule, q.calls, q.stop, q.free⟩ (by simp [s4]) ?_))))
          show actE2Clear s4 = _
          simp [actE2Clear, State.clearBuf, State.setBuf, State.goto, Ring.clear, State.buf, sendLoop, own, ack, State.asked, s4, s3,
            s2, s1]
        · simp [s4, sendLoop, own, ack]
        · simp [s4, s3, s2, s1, sendLoop, own, ack, lost]
        · simp [s4, s3, s2, sendLoop, own, ack, sampledOwnership]

/-- The bytes stored into a buffer one by one, each refused when it is full (R101, R146). -/
def Ring.storeAll (nCap : Nat) (l : List Byte) (r : Ring) : Ring := l.foldl (fun r v => (r.store nCap v).2) r

/-- What is stored one by one stands behind what was there, up to the capacity. -/
theorem Ring.storeAll_c (n : Nat) (l : List Byte) (r : Ring) (h : r.c.length ≤ n) :
    (r.storeAll n l).c = (r.c ++ l).take n := by
  induction l generalizing r with
  | nil => simp [Ring.storeAll, List.take_of_length_le h]
  | cons v rest ih =>
    have step : r.storeAll n (v :: rest) = (r.store n v).2.storeAll n rest := rfl
    by_cases full : r.c.length = n
    · rw [step, Ring.store_full n v r full, ih r h]
      simp [← full]
    · rw [step, Ring.store_room n v r full, ih _ (by simp; omega)]
      simp

/-- The loop `F4`, `F5` of R140 with no SERVICE step in it. -/
theorem reaches_receiveLoop (a : Nat → Draw) (m i : Nat) (s : State) (q : s.Quiet)
    (answers : ∀ j, s.answer j = a (i + j)) (label : s.ctx.seq = .f4) (count : s.ctx.n.toNat + m = s.ctx.q.toNat)
    (early : s.ctx.early = false) (lost : s.ctx.ownerLost = false) :
    i ≤ (receiveLoop a m i).used
      ∧ ∃ c : Ctx,
        Reaches s { s.asked ((receiveLoop a m i).used - i) with
          rx := s.rx.storeAll s.cfg.nCap (receiveLoop a m i).bytes
          trace := s.trace ++ (receiveLoop a m i).calls
          ctx := c }
        ∧ c.seq = .f6 ∧ c.op = s.ctx.op ∧ c.stop = s.ctx.stop
        ∧ c.early = ((receiveLoop a m i).ownerLost || (receiveLoop a m i).failed)
        ∧ c.ownerLost = (receiveLoop a m i).ownerLost
        ∧ c.sampled = (s.ctx.sampled || sampledOwnership (receiveLoop a m i).calls)
        ∧ c.n = s.ctx.n + BitVec.ofNat 32 (receiveLoop a m i).bytes.length := by
  induction m generalizing i s with
  | zero =>
    have all : s.ctx.n = s.ctx.q := BitVec.eq_of_toNat_eq (by omega)
    refine ⟨Nat.le_refl i, { s.ctx with seq := .f6 }, ?_, rfl, rfl, rfl, early, lost, ?_, ?_⟩
    · refine Reaches.act q (by simp [label]) ?_
      simp [Machine.act, label, actF4, all, State.goto, receiveLoop, State.asked, Ring.storeAll]
    · simp [receiveLoop, sampledOwnership]
    · simp [receiveLoop]
  | succ m ih =>
    have more : ¬ s.ctx.n = s.ctx.q := by
      intro h
      rw [h] at count
      omega
    have first : s.answer 0 = a i := answers 0
    have second : s.answer 1 = a (i + 1) := answers 1
    have third : s.answer 2 = a (i + 2) := answers 2
    cases late : (a i).flag with
    | true =>
      refine ⟨by simp [receiveLoop, late], { s.ctx with timedOut := true, early := true, seq := .f6 }, ?_⟩
      refine ⟨Reaches.act q (by simp [label]) ?_, rfl, rfl, rfl, ?_, ?_, ?_, ?_⟩
      · simp only [Machine.act, label, actF4, more, q.askFlag_eq, first, late]
        simp [receiveLoop, late, State.asked, Ring.storeAll]
      · simp [receiveLoop, late]
      · simp [receiveLoop, late, lost]
      · simp [receiveLoop, late, sampledOwnership]
      · simp [receiveLoop, late]
    | false =>
      let s1 : State := { s.asked 1 with
        trace := s.trace ++ [.hasTimedOut false]
        ctx := { s.ctx with timedOut := false, seq := .f4Own } }
      have h1 : Reaches s s1 := by
        refine Reaches.act q (by simp [label]) ?_
        simp only [Machine.act, label, actF4, more, q.askFlag_eq, first, late]
        simp [State.asked, s1]
      have q1 : s1.Quiet := ⟨q.schedule, q.calls, q.stop, q.free⟩
      have second1 : s1.answer 0 = a (i + 1) := by
        rw [← second]
        exact State.answer_asked 1 0 s
      cases own : (a (i + 1)).flag with
      | false =>
        refine ⟨by simp [receiveLoop, late, own],
          { s1.ctx with own := false, sampled := true, ownerLost := true, early := true, seq := .f6 }, ?_⟩
        refine ⟨h1.trans (Reaches.act q1 (by simp [s1]) ?_), rfl, rfl, rfl, ?_, ?_, ?_, ?_⟩
        · show actF4Own s1 = _
          simp only [actF4Own, q1.askFlag_eq, second1, own]
          simp [receiveLoop, late, own, State.asked, s1, Ring.storeAll]
        · simp [receiveLoop, late, own]
        · simp [receiveLoop, late, own]
        · simp [receiveLoop, late, own, sampledOwnership]
        · simp [receiveLoop, late, own, s1]
      | true =>
        let s2 : State := { s1.asked 1 with
          trace := s1.trace ++ [.hasBusOwnership true]
          ctx := { s1.ctx with own := true, sampled := true, seq := .f5 } }
        have h2 : Reaches s1 s2 := by
          refine Reaches.act q1 (by simp [s1]) ?_
          show actF4Own s1 = _
          simp only [actF4Own, q1.askFlag_eq, second1, own]
          simp [State.asked, s1, s2]
        have q2 : s2.Quiet := ⟨q.schedule, q.calls, q.stop, q.free⟩
        let s3 : State := { s2 with
          trace := s2.trace ++ [.signalContinue]
          ctx := { s2.ctx with seq := .f5Receive } }
        have h3 : Reaches s2 s3 := by
          refine Reaches.act q2 (by simp [s2]) ?_
          show actF5 s2 = _
          simp [actF5, q2.call_eq, State.goto, s3]
        have q3 : s3.Quiet := ⟨q.schedule, q.calls, q.stop, q.free⟩
        have third3 : s3.answer 0 = a (i + 2) := by
          have : ((s.asked 1).asked 1).answer 0 = a (i + 2) := by
            rw [State.answer_asked, State.answer_asked, ← third]
          exact this
        let s4 : State := { s3.asked 1 with
          trace := s3.trace ++ [.receiveByte (a (i + 2)).byte]
          ctx := { s3.ctx with b := some (a (i + 2)).byte, seq := .f5Store } }
        have h4 : Reaches s3 s4 := by
          refine Reaches.act q3 (by simp [s3]) ?_
          show actF5Receive s3 = _
          simp only [actF5Receive, q3.askByte_eq, third3]
          simp [State.asked, s3, s4]
        have q4 : s4.Quiet := ⟨q.schedule, q.calls, q.stop, q.free⟩
        let s5 : State := { s4 with
          rx := (s.rx.store s.cfg.nCap (a (i + 2)).byte).2
          ctx := { s4.ctx with n := s.ctx.n + 1, seq := .f4 } }
        have h5 : Reaches s4 s5 := by
          refine Reaches.act q4 (by simp [s4]) ?_
          show actF5Store s4 = _
          simp [actF5Store, State.storeByte, State.setBuf, State.buf, State.asked, s5, s4, s3, s2, s1]
        have later : ∀ j, s5.answer j = a (i + 3 + j) := by
          intro j
          have : (((s.asked 1).asked 1).asked 1).answer j = a (i + 3 + j) := by
            rw [State.answer_asked, State.answer_asked, State.answer_asked, answers]
            congr 1
            omega
          exact this
        have counted : s5.ctx.n.toNat + m = s5.ctx.q.toNat := by
          show (s.ctx.n + 1).toNat + m = s.ctx.q.toNat
          have := s.ctx.q.isLt
          rw [BitVec.toNat_add]
          simp
          omega
        obtain ⟨le, c, reach, c1, c2, c3, c4, c5, c6, c7⟩ := ih (i + 3) s5 ⟨q.schedule, q.calls, q.stop, q.free⟩ later rfl counted
          early lost
        have used : (receiveLoop a (m + 1) i).used = (receiveLoop a m (i + 3)).used := by simp [receiveLoop, late, own]
        have taken : 1 + (1 + (1 + ((receiveLoop a m (i + 3)).used - (i + 3)))) = (receiveLoop a m (i + 3)).used - i := by omega
        refine ⟨by omega, c, ?_, c1, c2, c3, ?_, ?_, ?_, ?_⟩
        · refine h1.trans (h2.trans (h3.trans (h4.trans (h5.trans ?_))))
          convert reach using 1
          simp only [State.asked, s5, s4, s3, s2, s1, List.drop_drop, used, ← taken, ← Nat.add_assoc]
          simp [receiveLoop, late, own, Ring.storeAll, Nat.add_comm, Nat.add_left_comm]
        · simpa [receiveLoop, late, own] using c4
        · simpa [receiveLoop, late, own] using c5
        · simpa [receiveLoop, late, own, sampledOwnership, s5, s4, s3, s2] using c6
        · rw [c7]
          show s.ctx.n + 1 + _ = _
          apply BitVec.eq_of_toNat_eq
          simp [receiveLoop, late, own]
          omega

end Sys2Proof.Machine
end

