-- ==== Sys2Proof/Laws/PerInstr.lean ====
section
/-! SUPPORT. Facts about commands as syntax, one lemma for each constructor of `Instr`. -/

namespace Sys2Proof.Laws

/-- A packed word selects the row of its `OP` value when its operands stay inside the fields that row uses. -/
theorem decodeOpcode_packFields (o : Opcode) (f : Bool) (s : BufSel) (a : Byte) (w : Word)
    (hw : w &&& (Opcode.layoutMask o).1 = 0) (ha : a &&& (Opcode.layoutMask o).2.1 = 0)
    (hs : BitVec.ofBool s.bit &&& (Opcode.layoutMask o).2.2.1 = 0)
    (hf : BitVec.ofBool f &&& (Opcode.layoutMask o).2.2.2 = 0) :
    decodeOpcode (packFields o.op f s a w) = .ok o := by
  have mask : packFields o.op f s a w &&& o.mask = o.pattern := by
    rw [mask_layout, pattern_layout, packFields, layout_and, layout_inj]
    refine ⟨hw, by simp, ha, by simp, hs, hf, ?_⟩
    cases o <;> rfl
  simp [decodeOpcode, opField_packFields, ofByte_op, mask]

/-- R79 for the encoder: the word of a command selects the command's own row. -/
def EncodeSelects.Statement (i : Instr) : Prop := decodeOpcode (encodeWord i) = .ok i.opcode

theorem EncodeSelects.beginMaster : EncodeSelects.Statement .beginMaster :=
  decodeOpcode_packFields .beginMaster _ _ _ _ (by simp [Opcode.layoutMask, Opcode.mask]) (by simp [Opcode.layoutMask, Opcode.mask])
    (by simp [Opcode.layoutMask, Opcode.mask, BufSel.bit]) (by simp [Opcode.layoutMask, Opcode.mask])

theorem EncodeSelects.beginSlave (x y) : EncodeSelects.Statement (.beginSlave x y) :=
  decodeOpcode_packFields .beginSlave _ _ _ _ (by simp [Opcode.layoutMask, Opcode.mask]) (by simp [Opcode.layoutMask, Opcode.mask])
    (by simp [Opcode.layoutMask, Opcode.mask, BufSel.bit]) (by simp [Opcode.layoutMask, Opcode.mask])

theorem EncodeSelects.setClock (x) : EncodeSelects.Statement (.setClock x) :=
  decodeOpcode_packFields .setClock _ _ _ _ (by simp [Opcode.layoutMask, Opcode.mask]) (by simp [Opcode.layoutMask, Opcode.mask])
    (by simp [Opcode.layoutMask, Opcode.mask, BufSel.bit]) (by simp [Opcode.layoutMask, Opcode.mask])

theorem EncodeSelects.endBus : EncodeSelects.Statement .endBus :=
  decodeOpcode_packFields .endBus _ _ _ _ (by simp [Opcode.layoutMask, Opcode.mask]) (by simp [Opcode.layoutMask, Opcode.mask])
    (by simp [Opcode.layoutMask, Opcode.mask, BufSel.bit]) (by simp [Opcode.layoutMask, Opcode.mask])

theorem EncodeSelects.beginTransmission (x) : EncodeSelects.Statement (.beginTransmission x) :=
  decodeOpcode_packFields .beginTransmission _ _ _ _ (by simp [Opcode.layoutMask, Opcode.mask]) (by simp [Opcode.layoutMask, Opcode.mask])
    (by simp [Opcode.layoutMask, Opcode.mask, BufSel.bit]) (by simp [Opcode.layoutMask, Opcode.mask])

theorem EncodeSelects.writeByte (x) : EncodeSelects.Statement (.writeByte x) :=
  decodeOpcode_packFields .writeByte _ _ _ _ (by simp [Opcode.layoutMask, Opcode.mask]) (by simp [Opcode.layoutMask, Opcode.mask])
    (by simp [Opcode.layoutMask, Opcode.mask, BufSel.bit]) (by simp [Opcode.layoutMask, Opcode.mask])

theorem EncodeSelects.writeBytes (x y) : EncodeSelects.Statement (.writeBytes x y) :=
  decodeOpcode_packFields .writeBytes _ _ _ _ (by simp [Opcode.layoutMask, Opcode.mask]) (by simp [Opcode.layoutMask, Opcode.mask])
    (by simp [Opcode.layoutMask, Opcode.mask, BufSel.bit]) (by simp [Opcode.layoutMask, Opcode.mask])

theorem EncodeSelects.endTransmission (x) : EncodeSelects.Statement (.endTransmission x) :=
  decodeOpcode_packFields .endTransmission _ _ _ _ (by simp [Opcode.layoutMask, Opcode.mask]) (by simp [Opcode.layoutMask, Opcode.mask])
    (by simp [Opcode.layoutMask, Opcode.mask, BufSel.bit]) (by simp [Opcode.layoutMask, Opcode.mask])

theorem EncodeSelects.requestFrom (x y z) : EncodeSelects.Statement (.requestFrom x y z) :=
  decodeOpcode_packFields .requestFrom _ _ _ _ (by simp [Opcode.layoutMask, Opcode.mask]) (by simp [Opcode.layoutMask, Opcode.mask])
    (by simp [Opcode.layoutMask, Opcode.mask, BufSel.bit]) (by simp [Opcode.layoutMask, Opcode.mask])

theorem EncodeSelects.available : EncodeSelects.Statement .available :=
  decodeOpcode_packFields .available _ _ _ _ (by simp [Opcode.layoutMask, Opcode.mask]) (by simp [Opcode.layoutMask, Opcode.mask])
    (by simp [Opcode.layoutMask, Opcode.mask, BufSel.bit]) (by simp [Opcode.layoutMask, Opcode.mask])

theorem EncodeSelects.read : EncodeSelects.Statement .read :=
  decodeOpcode_packFields .read _ _ _ _ (by simp [Opcode.layoutMask, Opcode.mask]) (by simp [Opcode.layoutMask, Opcode.mask])
    (by simp [Opcode.layoutMask, Opcode.mask, BufSel.bit]) (by simp [Opcode.layoutMask, Opcode.mask])

theorem EncodeSelects.peek : EncodeSelects.Statement .peek :=
  decodeOpcode_packFields .peek _ _ _ _ (by simp [Opcode.layoutMask, Opcode.mask]) (by simp [Opcode.layoutMask, Opcode.mask])
    (by simp [Opcode.layoutMask, Opcode.mask, BufSel.bit]) (by simp [Opcode.layoutMask, Opcode.mask])

theorem EncodeSelects.onReceive (x y) : EncodeSelects.Statement (.onReceive x y) :=
  decodeOpcode_packFields .onReceive _ _ _ _ (by simp [Opcode.layoutMask, Opcode.mask]) (by simp [Opcode.layoutMask, Opcode.mask])
    (by simp [Opcode.layoutMask, Opcode.mask, BufSel.bit]) (by simp [Opcode.layoutMask, Opcode.mask])

theorem EncodeSelects.onRequest (x y) : EncodeSelects.Statement (.onRequest x y) :=
  decodeOpcode_packFields .onRequest _ _ _ _ (by simp [Opcode.layoutMask, Opcode.mask]) (by simp [Opcode.layoutMask, Opcode.mask])
    (by simp [Opcode.layoutMask, Opcode.mask, BufSel.bit]) (by simp [Opcode.layoutMask, Opcode.mask])

theorem EncodeSelects.service : EncodeSelects.Statement .service :=
  decodeOpcode_packFields .service _ _ _ _ (by simp [Opcode.layoutMask, Opcode.mask]) (by simp [Opcode.layoutMask, Opcode.mask])
    (by simp [Opcode.layoutMask, Opcode.mask, BufSel.bit]) (by simp [Opcode.layoutMask, Opcode.mask])

theorem EncodeSelects.bufStore (x y) : EncodeSelects.Statement (.bufStore x y) :=
  decodeOpcode_packFields .bufStore _ _ _ _ (by simp [Opcode.layoutMask, Opcode.mask]) (by simp [Opcode.layoutMask, Opcode.mask])
    (by simp [Opcode.layoutMask, Opcode.mask, BufSel.bit]) (by simp [Opcode.layoutMask, Opcode.mask])

theorem EncodeSelects.bufRead (x) : EncodeSelects.Statement (.bufRead x) :=
  decodeOpcode_packFields .bufRead _ _ _ _ (by simp [Opcode.layoutMask, Opcode.mask]) (by simp [Opcode.layoutMask, Opcode.mask])
    (by simp [Opcode.layoutMask, Opcode.mask, BufSel.bit]) (by simp [Opcode.layoutMask, Opcode.mask])

theorem EncodeSelects.bufPeek (x) : EncodeSelects.Statement (.bufPeek x) :=
  decodeOpcode_packFields .bufPeek _ _ _ _ (by simp [Opcode.layoutMask, Opcode.mask]) (by simp [Opcode.layoutMask, Opcode.mask])
    (by simp [Opcode.layoutMask, Opcode.mask, BufSel.bit]) (by simp [Opcode.layoutMask, Opcode.mask])

theorem EncodeSelects.bufAvailable (x) : EncodeSelects.Statement (.bufAvailable x) :=
  decodeOpcode_packFields .bufAvailable _ _ _ _ (by simp [Opcode.layoutMask, Opcode.mask]) (by simp [Opcode.layoutMask, Opcode.mask])
    (by simp [Opcode.layoutMask, Opcode.mask, BufSel.bit]) (by simp [Opcode.layoutMask, Opcode.mask])

theorem EncodeSelects.bufIsFull (x) : EncodeSelects.Statement (.bufIsFull x) :=
  decodeOpcode_packFields .bufIsFull _ _ _ _ (by simp [Opcode.layoutMask, Opcode.mask]) (by simp [Opcode.layoutMask, Opcode.mask])
    (by simp [Opcode.layoutMask, Opcode.mask, BufSel.bit]) (by simp [Opcode.layoutMask, Opcode.mask])

theorem EncodeSelects.bufClear (x) : EncodeSelects.Statement (.bufClear x) :=
  decodeOpcode_packFields .bufClear _ _ _ _ (by simp [Opcode.layoutMask, Opcode.mask]) (by simp [Opcode.layoutMask, Opcode.mask])
    (by simp [Opcode.layoutMask, Opcode.mask, BufSel.bit]) (by simp [Opcode.layoutMask, Opcode.mask])

end Sys2Proof.Laws
end

