-- ==== Sys2Proof/Tests/Slice0.lean ====
section
/-! SUPPORT. The model's own tests. Expected results come from spec/95_test_vectors.md (named by their ids there) and the
words from spec/30_encoding.md R71, R74 and R90. Then, for every obligation with hypotheses, a witness: a concrete state and
operands that meet them all together, at the boundary values of its clauses. -/

namespace Sys2Proof.Tests

open Sys2Proof Sys2Proof.Machine

/-! ## Well-formedness -/

theorem test_wellFormed_refuses_long_payload : (Instr.writeBytes 1 [0x01, 0x02]).wellFormed = false := by decide
theorem test_wellFormed_refuses_short_payload : (Instr.writeBytes 3 [0x01, 0x02]).wellFormed = false := by decide
theorem test_wellFormed_accepts : (Instr.writeBytes 2 [0x01, 0x02]).wellFormed = true ∧ Instr.read.wellFormed = true := by
  decide
theorem test_decode_refuses_payload_length :
    decodeWord 0x0000000300000012 [0x01, 0x02] = .error .payloadLength
      ∧ decodeWord 0x0000000000000016 [0x01] = .error .payloadLength := ⟨rfl, rfl⟩

/-! ## Decoding, one word for each constructor -/

theorem test_decode_configuration :
    decodeWord 0x0000000000000001 [] = .ok .beginMaster
      ∧ decodeWord 0x0000000000420102 [] = .ok (.beginSlave 0x42 true)
      ∧ decodeWord 0x000186A000000003 [] = .ok (.setClock 100000)
      ∧ decodeWord 0x0000000000000004 [] = .ok .endBus := ⟨rfl, rfl, rfl, rfl⟩

theorem test_decode_write :
    decodeWord 0x0000000000500010 [] = .ok (.beginTransmission 0x50)
      ∧ decodeWord 0x0000000000AA0011 [] = .ok (.writeByte 0xAA)
      ∧ decodeWord 0x0000000200000012 [0x20, 0x30] = .ok (.writeBytes 2 [0x20, 0x30])
      ∧ decodeWord 0x0000000000000113 [] = .ok (.endTransmission true)
      ∧ decodeWord 0x0000000000000013 [] = .ok (.endTransmission false) := ⟨rfl, rfl, rfl, rfl, rfl⟩

theorem test_decode_read :
    decodeWord 0x0000000300500014 [] = .ok (.requestFrom 0x50 3 false)
      ∧ decodeWord 0x0000000400500114 [] = .ok (.requestFrom 0x50 4 true)
      ∧ decodeWord 0x0000000000000015 [] = .ok .available
      ∧ decodeWord 0x0000000000000016 [] = .ok .read
      ∧ decodeWord 0x0000000000000017 [] = .ok .peek := ⟨rfl, rfl, rfl, rfl, rfl⟩

theorem test_decode_callbacks :
    decodeWord 0x0000000700000120 [] = .ok (.onReceive true 7)
      ∧ decodeWord 0x0000000000000020 [] = .ok (.onReceive false 0)
      ∧ decodeWord 0x0000000200000121 [] = .ok (.onRequest true 2)
      ∧ decodeWord 0x0000000000000021 [] = .ok (.onRequest false 0)
      ∧ decodeWord 0x0000000000000030 [] = .ok .service := ⟨rfl, rfl, rfl, rfl, rfl⟩

theorem test_decode_buffer :
    decodeWord 0x0000000000410240 [] = .ok (.bufStore .rx 0x41)
      ∧ decodeWord 0x0000000000000041 [] = .ok (.bufRead .tx)
      ∧ decodeWord 0x0000000000000242 [] = .ok (.bufPeek .rx)
      ∧ decodeWord 0x0000000000000043 [] = .ok (.bufAvailable .tx)
      ∧ decodeWord 0x0000000000000244 [] = .ok (.bufIsFull .rx)
      ∧ decodeWord 0x0000000000000045 [] = .ok (.bufClear .tx) := ⟨rfl, rfl, rfl, rfl, rfl, rfl⟩

/-- E4, E5 and E11. -/
theorem test_decode_reserved :
    decodeWord 0x0000000000000018 [] = .error .unknownOpcode
      ∧ decodeWord 0x0000000000500110 [] = .error .unusedBits
      ∧ decodeWord 0x0000000001000015 [] = .error .unusedBits := ⟨rfl, rfl, rfl⟩

/-- R78: the bytes of `requestFrom(0x50, 3)`, least significant first. -/
theorem test_decode_bytes_little_endian :
    decodeBytes [0x14, 0x01, 0x50, 0x00, 0x03, 0x00, 0x00, 0x00, 0x99] = .ok (.requestFrom 0x50 3 true, [0x99]) := rfl

/-- R89, R90: the default-argument forms and the deregistration forms. -/
theorem test_pseudo_commands :
    encodeWord endTransmissionDefault = 0x0000000000000113 ∧ encodeWord (requestFromDefault 0x50 3) = 0x0000000300500114
      ∧ encodeWord onReceiveNone = 0x0000000000000020 ∧ encodeWord onRequestNone = 0x0000000000000021 := by decide

/-- R88: the call syntax. -/
theorem test_spelling :
    (Instr.endTransmission false).spelling = "endTransmission(false)"
      ∧ (Instr.requestFrom 0x50 3 true).spelling = "requestFrom(80, 3, true)"
      ∧ (Instr.writeBytes 2 [0x01, 0x02]).spelling = "write([1, 2], 2)"
      ∧ (Instr.bufRead .rx).spelling = "buf.read(rx)" ∧ (Instr.onRequest false 0).spelling = "onRequest(none)" := by decide

theorem test_encode_payload_follows :
    encode (.writeBytes 2 [0xC0, 0xC1]) = [0x12, 0x00, 0x00, 0x00, 0x02, 0x00, 0x00, 0x00, 0xC0, 0xC1] := by decide

/-! ## States to test on -/

/-- A buffer of capacity 4 that holds these bytes from its first place on. -/
def ring (l : List Byte) : Ring := { c := l, storage := l ++ List.replicate (4 - l.length) 0, head := l.length % 4 }

/-- The start of the vectors: `N_CAP = 4`, `K = 100000`, `targetAddress = 0x50`, `rx.c = [0xAA]`. -/
def base : State :=
  { cfg := { nCap := 4, ownerUnsampled := .retained }, tx := ring [], rx := ring [0xAA], targetAddress := 0x50
    transmissionOpen := true, activeClockRate := 100000
    onReceiveHandler := { registered := false, handle := 0 }, onRequestHandler := { registered := false, handle := 0 }
    ctx := Ctx.idle, inService := false, presented := [], schedule := [], answers := [], draws := 0, callsLeft := []
    apps := [], trace := [], results := [], stop := none }

/-- The peripheral's answers: true, false, a byte. -/
def y : Draw := ⟨true, 0⟩
def f : Draw := ⟨false, 0⟩
def recv (b : Byte) : Draw := ⟨false, b⟩

/-- `base` with bytes in `tx` and a script of answers. -/
def sending (l : List Byte) (answers : List Draw) : State := { base with tx := ring l, answers := answers }

/-- `base` with a snapshot that SERVICE finds and further answers. -/
def event (p : Snapshot) (more : List Draw) : State := { base with answers := snapshotAnswers p ++ more }

/-- The snapshots of the vectors, as bits `am sp rs rd dr`. -/
def stopped : Snapshot := ⟨false, true, false, false, false⟩
def matchedRead : Snapshot := ⟨true, false, false, true, false⟩
def matchedWrite : Snapshot := ⟨true, false, false, false, false⟩
def readyRead : Snapshot := ⟨false, false, false, true, true⟩
def readyWrite : Snapshot := ⟨false, false, false, false, true⟩
def quiet : Snapshot := ⟨false, false, false, false, false⟩

/-- What a vector looks at: results, calls, `tx.c`, `rx.c`, `open`. -/
structure Seen where
  results : List Word
  calls : List Call
  tx : List Byte
  rx : List Byte
  isOpen : Bool
deriving DecidableEq, Repr

def seen (o : Host.Outcome State Fault Refusal) : Option Seen :=
  match o with
  | .next s => some ⟨s.results.map Result.word, s.trace, s.tx.c, s.rx.c, s.transmissionOpen⟩
  | .fault _ => none
  | .refused _ => none

def nextOf (o : Host.Outcome State Fault Refusal) : Option State :=
  match o with
  | .next s => some s
  | .fault _ => none
  | .refused _ => none

def refusalOf (o : Host.Outcome State Fault Refusal) : Option Refusal :=
  match o with
  | .refused r => some r
  | .next _ => none
  | .fault _ => none

def faultOf (o : Host.Outcome State Fault Refusal) : Option Fault :=
  match o with
  | .fault r => some r
  | .next _ => none
  | .refused _ => none

/-- The calls a command makes from a state, or none where it stops. -/
def callsFrom (i : Instr) (s : State) : List Call :=
  match exec i s with
  | .next t => t.trace.drop s.trace.length
  | .fault _ => []
  | .refused _ => []

/-! ## Configuration -/

/-- M1 -/
theorem test_beginMaster : seen (exec .beginMaster base)
    = some ⟨[0], [.configureAsMaster 100000, .enable], [], [0xAA], true⟩ := by decide
/-- M7 -/
theorem test_beginSlave : seen (exec (.beginSlave 0x42 true) base)
    = some ⟨[0], [.configureAsSlave 0x42 true, .enable], [], [0xAA], true⟩ := by decide
/-- M2, M3 -/
theorem test_setClock_then_beginMaster : seen (execAll [.setClock 400000, .beginMaster] base)
    = some ⟨[0, 0], [.disable, .configureAsMaster 400000, .enable, .configureAsMaster 400000, .enable], [], [0xAA], true⟩ := by
  decide
/-- M5 -/
theorem test_endBus : seen (exec .endBus (sending [0x01] [])) = some ⟨[0], [.disable], [0x01], [0xAA], true⟩ := by decide

/-! ## Write transaction -/

/-- W9 -/
theorem test_beginTransmission : (nextOf (exec (.beginTransmission 0x51) (sending [0x01] []))).map
    (fun t => (t.targetAddress, t.tx.c, t.transmissionOpen, t.trace)) = some (0x51, [], true, []) := by decide
/-- W3 -/
theorem test_writeByte : seen (exec (.writeByte 0x10) base) = some ⟨[1], [], [0x10], [0xAA], true⟩ := by decide
/-- W1, W7 -/
theorem test_writeByte_rejected :
    seen (exec (.writeByte 0x10) { base with transmissionOpen := false }) = some ⟨[0], [], [], [0xAA], false⟩
      ∧ seen (exec (.writeByte 0x33) (sending [1, 2, 3, 4] [])) = some ⟨[0], [], [1, 2, 3, 4], [0xAA], true⟩ := by decide
/-- W4 -/
theorem test_writeBytes_short : seen (exec (.writeBytes 3 [0x01, 0x02, 0x03]) (sending [0xA0, 0xA1] []))
    = some ⟨[2], [], [0xA0, 0xA1, 0x01, 0x02], [0xAA], true⟩ := by decide
/-- W5, W6 -/
theorem test_writeBytes_none : seen (exec (.writeBytes 0 []) base) = some ⟨[0], [], [], [0xAA], true⟩
    ∧ seen (exec (.writeBytes 1 [0x01]) { base with transmissionOpen := false }) = some ⟨[0], [], [], [0xAA], false⟩ := by decide
/-- ET4 -/
theorem test_endTransmission_dataNack : seen (exec (.endTransmission true) (sending [0x01, 0x02, 0x03] [y, y, y, y, f, f]))
    = some ⟨[3], [.startTransaction 0x50 .write true, .hasBusOwnership true, .sendByte 0x01 true, .hasBusOwnership true,
        .sendByte 0x02 false, .issueBusStop, .hasTimedOut false], [], [0xAA], false⟩ := by decide
/-- Program 8: a SERVICE step between `Available(tx)` and the ownership query takes the byte. -/
theorem test_endTransmission_drained :
    seen (exec (.endTransmission true)
        { sending [0x10] ([y] ++ snapshotAnswers readyRead ++ [y, y, f]) with schedule := [0, 0, 0, 1] })
      = some ⟨[0, 0], [.startTransaction 0x50 .write true] ++ snapshotCalls readyRead ++ [.sendByte 0x10 true,
          .hasBusOwnership true, .issueBusStop, .hasTimedOut false], [], [0xAA], true⟩ := by decide

/-! ## Read transaction -/

/-- RF6 -/
theorem test_requestFrom_ownership_lost :
    seen (exec (.requestFrom 0x50 4 true) { base with answers := [y, recv 0x11, f, y, recv 0x22, f, f, f] })
      = some ⟨[1], [.startTransaction 0x50 .read true, .receiveByte 0x11, .hasTimedOut false, .hasBusOwnership true,
          .signalContinue, .receiveByte 0x22, .hasTimedOut false, .hasBusOwnership false, .signalStop, .hasTimedOut false],
          [], [0x11, 0x22], true⟩ := by decide
/-- RF11 -/
theorem test_requestFrom_timeout :
    seen (exec (.requestFrom 0x50 2 true) { base with answers := [y, recv 0x11, f, f, y] })
      = some ⟨[0], [.startTransaction 0x50 .read true, .receiveByte 0x11, .hasTimedOut false, .hasBusOwnership false,
          .signalStop, .hasTimedOut true, .issueBusStop, .disable, .configureAsMaster 100000, .enable], [], [0x11], false⟩ := by
  decide
/-- RD3, RD6 -/
theorem test_available : seen (exec .available { base with rx := ring [] }) = some ⟨[0], [], [], [], true⟩
    ∧ seen (exec .available { base with rx := ring [0x22] }) = some ⟨[1], [], [], [0x22], true⟩ := by decide
/-- RD1, RD7 -/
theorem test_read : seen (exec .read { base with rx := ring [] }) = some ⟨[0xFFFFFFFF], [], [], [], true⟩
    ∧ seen (exec .read { base with rx := ring [0xFF] }) = some ⟨[0x000000FF], [], [], [], true⟩ := by decide
/-- RD2, RD5 -/
theorem test_peek : seen (exec .peek { base with rx := ring [] }) = some ⟨[0xFFFFFFFF], [], [], [], true⟩
    ∧ seen (exec .peek { base with rx := ring [0x22] }) = some ⟨[0x00000022], [], [], [0x22], true⟩ := by decide

/-! ## Registration and SERVICE -/

/-- G1, G2 -/
theorem test_onReceive : (nextOf (exec (.onReceive true 7) base)).map State.onReceiveHandler = some ⟨true, 7⟩
    ∧ (nextOf (exec (.onReceive false 0) { base with onReceiveHandler := ⟨true, 7⟩ })).map State.onReceiveHandler
      = some ⟨false, 0⟩ := by decide
/-- G3, G4 -/
theorem test_onRequest : (nextOf (exec (.onRequest true 2) base)).map State.onRequestHandler = some ⟨true, 2⟩
    ∧ (nextOf (exec (.onRequest false 0) { base with onRequestHandler := ⟨true, 2⟩ })).map State.onRequestHandler
      = some ⟨false, 0⟩ := by decide
/-- Program 4, steps 7 to 7e: the three bytes are read inside the callback. -/
theorem test_service_onReceive :
    seen (exec .service { event stopped [] with
        rx := ring [1, 2, 3]
        onReceiveHandler := ⟨true, 1⟩
        apps := [⟨[⟨0x15, []⟩, ⟨0x16, []⟩, ⟨0x16, []⟩, ⟨0x16, []⟩], true⟩] })
      = some ⟨[3, 1, 2, 3, 0], snapshotCalls stopped ++ [.signalContinue, .acknowledgeEvent, .callbackOnReceive 1 3], [], [],
          true⟩ := by decide
/-- S10, S8 -/
theorem test_service_data :
    seen (exec .service { event readyWrite [] with rx := ring [1, 2, 3, 4] })
        = some ⟨[0], snapshotCalls readyWrite ++ [.signalStop, .acknowledgeEvent], [], [1, 2, 3, 4], true⟩
      ∧ seen (exec .service (event readyRead [f]))
        = some ⟨[0], snapshotCalls readyRead ++ [.sendByte 0xFF false], [], [0xAA], false⟩ := by decide

/-! ## The buffer commands -/

/-- B2, B3 -/
theorem test_bufStore : seen (exec (.bufStore .tx 4) (sending [1, 2, 3] [])) = some ⟨[1], [], [1, 2, 3, 4], [0xAA], true⟩
    ∧ seen (exec (.bufStore .tx 5) (sending [1, 2, 3, 4] [])) = some ⟨[0], [], [1, 2, 3, 4], [0xAA], true⟩ := by decide
/-- B6, B9 -/
theorem test_bufRead : seen (exec (.bufRead .tx) base) = some ⟨[0xFFFFFFFF], [], [], [0xAA], true⟩
    ∧ seen (exec (.bufRead .tx) (sending [0x07] [])) = some ⟨[0x00000007], [], [], [0xAA], true⟩ := by decide
/-- B7, B8 -/
theorem test_bufPeek : seen (exec (.bufPeek .tx) base) = some ⟨[0xFFFFFFFF], [], [], [0xAA], true⟩
    ∧ seen (exec (.bufPeek .tx) (sending [0x07] [])) = some ⟨[0x00000007], [], [0x07], [0xAA], true⟩ := by decide
/-- B12 -/
theorem test_bufAvailable : seen (exec (.bufAvailable .tx) (sending [1, 2, 3] [])) = some ⟨[3], [], [1, 2, 3], [0xAA], true⟩ := by
  decide
/-- B4, B5 -/
theorem test_bufIsFull : seen (exec (.bufIsFull .tx) (sending [1, 2, 3, 4] [])) = some ⟨[1], [], [1, 2, 3, 4], [0xAA], true⟩
    ∧ seen (exec (.bufIsFull .rx) base) = some ⟨[0], [], [], [0xAA], true⟩ := by decide
/-- B10 -/
theorem test_bufClear : seen (exec (.bufClear .rx) { base with rx := ring [1, 2] }) = some ⟨[0], [], [], [], true⟩ := by decide

/-! ## Ports and steps -/

/-- E6, E7 on the host port, E8 on the buffer port. -/
theorem test_ports :
    refusalOf (step { base with presented := [⟨.host, ⟨0x0000000000000030, []⟩⟩] }) = some (.wrongPort .host)
      ∧ refusalOf (step { base with presented := [⟨.host, ⟨0x0000000000410240, []⟩⟩] }) = some (.wrongPort .host)
      ∧ seen (step { base with presented := [⟨.buffer, ⟨0x0000000000410240, []⟩⟩] })
        = some ⟨[1], [], [], [0xAA, 0x41], true⟩ := by decide

/-- E9: END_TRANSMISSION inside a callback. -/
theorem test_callback_refusal :
    refusalOf (exec .service { event stopped [] with
        onReceiveHandler := ⟨true, 1⟩, apps := [⟨[⟨0x0000000000000113, []⟩], true⟩] })
      = some .notAdmittedInCallback := by decide

/-- END stuck in `disable()`, with a command of the host and then an event presented, and answers for one SERVICE step. -/
def stuckState : State :=
  { event readyWrite [recv 0x41] with
    ctx := { Ctx.idle with op := some .endBus, seq := .n0, hung := true }
    presented := [⟨.host, ⟨0x15, []⟩⟩, ⟨.event, ⟨0x30, []⟩⟩] }

/-- R202: END whose `disable()` never returns leaves the foreground stuck at `N0`, with the call and no result; SERVICE is
served all the same, while the host waits. -/
theorem test_foreground_hangs :
    (nextOf (exec .endBus { base with callsLeft := [0] })).map (fun t => (t.ctx.seq, t.ctx.hung, t.trace, t.results))
        = some (.n0, true, [.unreturned .disable], [])
      ∧ (nextOf (step stuckState)).map (fun t => (t.ctx.hung, t.rx.c, t.presented))
        = some (true, [0xAA, 0x41], [⟨.host, ⟨0x15, []⟩⟩]) := by decide

/-- The second call of a SERVICE step never returns: a fault, with the calls so far. -/
theorem test_service_hangs : faultOf (exec .service { event stopped [] with callsLeft := [1] })
    = some (.peripheralNeverReturns [.isSlaveMode true, .unreturned .isAddressMatched]) := by decide

/-- Law L3: two slots of one write session report two events, and an event that is reported twice breaks the law. -/
theorem test_eventClearing :
    EventClearing id (snapshotCalls readyWrite ++ [.signalStop, .acknowledgeEvent] ++ snapshotCalls readyWrite)
      ∧ ¬ EventClearing (fun _ => 0) (snapshotCalls readyWrite ++ [.signalStop, .acknowledgeEvent] ++ snapshotCalls readyWrite) :=
  ⟨fun k _ _ _ _ _ _ => Nat.succ_ne_self k, fun h => h 0 readyWrite readyWrite rfl rfl rfl rfl rfl⟩

/-- Law L2 (R180, R262, R264, R280): no SERVICE step before BEGIN_SLAVE, none between `S0` and `S1` even where the peripheral
was enabled as a master before, none after SET_CLOCK; from `S1` on it is lawful. -/
theorem test_slavePhase :
    slavePhase [] = .off ∧ slavePhase [.configureAsMaster 100000, .enable] = .off
      ∧ slavePhase [.configureAsMaster 100000, .enable, .configureAsSlave 0x42 false] = .configured
      ∧ slavePhase [.configureAsMaster 100000, .enable, .configureAsSlave 0x42 false, .enable] = .serving
      ∧ slavePhase ([.configureAsSlave 0x42 false, .enable] ++ busResetCalls 400000) = .off := by decide

/-- Law L2 is broken by a SERVICE step between `S0` and `S1`, also where its first call never returns. -/
theorem test_slaveEvents :
    SlaveEvents [.configureAsSlave 0x42 false, .enable, .isSlaveMode true]
      ∧ ¬ SlaveEvents [.configureAsMaster 100000, .enable, .configureAsSlave 0x42 false, .unreturned .isSlaveMode] := by
  refine ⟨?_, fun h => absurd (h 3 _ rfl rfl).2 (by decide)⟩
  intro i c hc hr
  match i, hc with
  | 0, hc => cases hc; cases hr
  | 1, hc => cases hc; cases hr
  | 2, hc => cases hc; exact ⟨by simp, rfl⟩

/-- From reset, the very next step runs the word that is placed: BEGIN_TRANSMISSION at 0x50. -/
theorem test_withFetchWord : (nextOf (step (State.reset.withFetchWord 64 0x0000000000500010))).map
    (fun t => (t.targetAddress, t.transmissionOpen)) = some (0x50, true) := by decide

/-! ## Witnesses

For each obligation with hypotheses: values that meet them together. -/

theorem witness_MaskSelectsRow : (0x0000000300500114 : CommandWord) &&& Opcode.requestFrom.mask = Opcode.requestFrom.pattern
    ∧ Opcode.requestFrom ∉ [Opcode.setClock, .beginMaster]
    ∧ (0x0000000000000001 : CommandWord) &&& Opcode.beginMaster.mask = Opcode.beginMaster.pattern
    ∧ Opcode.beginMaster ∉ [Opcode.beginSlave, .endTransmission, .requestFrom, .onReceive, .onRequest] := by decide

theorem witness_DecodeEncode : (Instr.writeBytes 2 [0x01, 0x02]).wellFormed = true
    ∧ (Instr.writeBytes 0 []).wellFormed = true := by decide

theorem witness_EncodeDecode : decodeWord 0xFFFFFFFFFFFF0114 [] = .error .unusedBits
    ∧ decodeWord 0xFFFFFFFF00FF0114 [] = .ok (.requestFrom 0xFF 0xFFFFFFFF true) := ⟨rfl, rfl⟩

/-- A word with an unknown opcode, and one with an unused bit set. -/
theorem witness_ReservedWordRefused : ∀ w ∈ ([0x0000000000000018, 0x0000000000500110] : List CommandWord),
    (∀ o : Opcode, w &&& o.mask ≠ o.pattern) ∧ base.ctx.seq = .idle
      ∧ ({ base with presented := [⟨.host, ⟨w, []⟩⟩] } : State).presented = ⟨.host, ⟨w, []⟩⟩ :: [] := by
  intro w hw
  simp only [List.mem_cons, List.not_mem_nil, or_false] at hw
  rcases hw with rfl | rfl
  · exact ⟨fun o => by cases o <;> decide, rfl, rfl⟩
  · exact ⟨fun o => by cases o <;> decide, rfl, rfl⟩

theorem witness_ClassesRefused_port : base.ctx.seq = .idle ∧ decodeWord 0x0000000000000030 [] = .ok .service
    ∧ decodeWord 0x0000000000410240 [] = .ok (.bufStore .rx 0x41) := ⟨rfl, rfl, rfl⟩

/-- An admitted command before the refused one, in each of the two callbacks. -/
def refusing (p : Snapshot) : State :=
  { event p [] with
    onReceiveHandler := ⟨true, 1⟩, onRequestHandler := ⟨true, 2⟩
    apps := [⟨[⟨0x15, []⟩] ++ ⟨0x0000000000000113, []⟩ :: [⟨0x16, []⟩], false⟩] }

theorem witness_ClassesRefused_callback : ∀ p ∈ [stopped, matchedRead],
    (refusing p).inService = false ∧ (refusing p).callsReturn ∧ (refusing p).reports p ∧ (refusing p).callsBack p
      ∧ (∀ x ∈ ([⟨0x15, []⟩] : List Command), x.admitted = true)
      ∧ decodeWord 0x0000000000000113 [] = .ok (.endTransmission true) ∧ forCallbacks (.endTransmission true) = false := by
  intro p hp
  simp only [List.mem_cons, List.not_mem_nil, or_false] at hp
  rcases hp with rfl | rfl
  · exact ⟨rfl, rfl, rfl, .inl (by decide), by decide, rfl, rfl⟩
  · exact ⟨rfl, rfl, rfl, .inr (by decide), by decide, rfl, rfl⟩

theorem witness_StepRunsDecoded : base.ctx.seq = .idle ∧ decodeWord 0x0000000000000016 [] = .ok .read
    ∧ Port.host.admits Instr.read.opcode.cmdClass = true ∧ decodeWord 0x0000000000000030 [] = .ok .service
    ∧ Port.event.admits Instr.service.opcode.cmdClass = true
    ∧ Port.buffer.admits (Instr.bufRead .tx).opcode.cmdClass = true := ⟨rfl, rfl, rfl, rfl, rfl, rfl⟩

theorem witness_WaitsWhenIdle : State.reset.ctx.seq = .idle ∧ State.reset.presented = [] := ⟨rfl, rfl⟩

theorem witness_FetchWordRuns : decodeTableWord 64 0x0000000200000012 = some (.writeBytes 2 [0, 0])
    ∧ decodeTableWord 8 0x0000000000000116 = some .read := ⟨rfl, rfl⟩

/-- Room for one more byte, and none. -/
theorem witness_BufStore : ((sending [1, 2, 3] []).buf .tx).c.length ≠ base.cfg.nCap
    ∧ ((sending [1, 2, 3, 4] []).buf .tx).c.length = base.cfg.nCap := by decide

theorem witness_BufRead : (base.buf .tx).c = [] ∧ (base.buf .rx).c = 0xAA :: [] := by decide

theorem witness_BufObserve : base.cfg.wf ∧ ((sending [1, 2, 3, 4] []).buf .tx).c.length ≤ base.cfg.nCap := by decide

theorem witness_FifoOrder : (base.buf .rx).c.length + ([1, 2, 3] : List Byte).length ≤ base.cfg.nCap := by decide

theorem ring_wf_full : (ring [1, 2, 3, 4]).wf 4 := by
  unfold Ring.wf
  decide

theorem ring_wf_part : (ring [1, 2, 3]).wf 4 := by
  unfold Ring.wf
  decide

/-- A full buffer, and one whose next byte goes into the last place. -/
theorem witness_ConcreteRingRefines :
    ConcreteRing.standsFor 4 { store := [1, 2, 3, 4], head := 0, tail := 0, count := 4 } (ring [1, 2, 3, 4])
      ∧ ConcreteRing.standsFor 4 { store := [1, 2, 3, 0], head := 3, tail := 0, count := 3 } (ring [1, 2, 3]) :=
  ⟨⟨rfl, rfl, rfl, rfl, ring_wf_full⟩, ⟨rfl, rfl, rfl, rfl, ring_wf_part⟩⟩

theorem witness_ConfigureRuns : base.undisturbed ∧ base.callsReturn := by decide
theorem witness_SetClockRuns : base.undisturbed ∧ base.callsReturn := by decide
theorem witness_BeginTransmissionOpens : base.undisturbed := by decide

theorem witness_WriteByteStores : base.undisturbed ∧ base.transmissionOpen = true ∧ base.tx.c.length ≠ base.cfg.nCap
    ∧ (sending [1, 2, 3, 4] []).tx.c.length = base.cfg.nCap := by decide

/-- More bytes than there is room for. -/
theorem witness_WriteBytesStoresWhatFits : (sending [1, 2, 3] []).undisturbed
    ∧ ([7, 8] : List Byte).length = (2 : Word).toNat ∧ (sending [1, 2, 3] []).tx.c.length ≤ base.cfg.nCap := by decide

theorem witness_CallbackCommandsKeepTheirRules : (Instr.writeBytes 2 [7, 8]).wellFormed = true ∧ base.undisturbed
    ∧ base.ctx = Ctx.idle ∧ base.stop = none ∧ base.tx.c.length ≤ base.cfg.nCap
    ∧ forCallbacks (.writeBytes 2 [7, 8]) = true
    ∧ decodeWord 0x0000000200000012 [7, 8] = .ok (.writeBytes 2 [7, 8]) :=
  ⟨rfl, rfl, rfl, rfl, by decide, rfl, rfl⟩

theorem base_inv : base.Inv where
  cfg := by decide
  rings := by constructor <;> unfold Ring.wf <;> decide
  onReceive := fun _ => rfl
  onRequest := fun _ => rfl
  inService := rfl
  stop := rfl
  hung := fun h => by cases h

/-- A command that returns, and one stuck in its second call. -/
theorem witness_ConfigurationCallsOnly : base.Inv ∧ nextOf (exec (.setClock 0) base) ≠ none
    ∧ { base with callsLeft := [1] }.Inv
    ∧ (nextOf (exec (.setClock 0) { base with callsLeft := [1] })).map (fun t => (t.ctx.hung, t.trace))
      = some (true, [.disable, .unreturned (.configureAsMaster 0)]) :=
  ⟨base_inv, by decide, { base_inv with }, by decide⟩

/-- The hypotheses of the statements about END_TRANSMISSION, for any script and the bytes of a full `tx`. -/
theorem sending_ready (answers : List Draw) : (sending [1, 2, 3, 4] answers).undisturbed
    ∧ (sending [1, 2, 3, 4] answers).callsReturn ∧ (sending [1, 2, 3, 4] answers).cfg.wf
    ∧ (sending [1, 2, 3, 4] answers).tx.c.length ≤ (sending [1, 2, 3, 4] answers).cfg.nCap :=
  ⟨rfl, rfl, by simp [sending, base, Config.wf], Nat.le_refl 4⟩

theorem witness_EndTransmissionWhole : base.undisturbed ∧ base.callsReturn ∧ base.cfg.wf
    ∧ base.tx.c.length ≤ base.cfg.nCap := by decide

theorem witness_AddressNackSendsNothing : (sending [1, 2] [f, f]).undisturbed ∧ (sending [1, 2] [f, f]).callsReturn
    ∧ ((sending [1, 2] [f, f]).answer 0).flag = false := by decide

theorem witness_SendStopRule : (sending [1, 2, 3, 4] [y, y, f, f]).undisturbed
    ∧ (sending [1, 2, 3, 4] [y, y, f, f]).callsReturn ∧ (sending [1, 2, 3, 4] [y, y, f, f]).cfg.wf
    ∧ (sending [1, 2, 3, 4] [y, y, f, f]).tx.c.length ≤ (sending [1, 2, 3, 4] [y, y, f, f]).cfg.nCap := sending_ready _

theorem witness_SendTimeout : (sending [1, 2, 3, 4] [f, y]).undisturbed ∧ (sending [1, 2, 3, 4] [f, y]).callsReturn
    ∧ (sending [1, 2, 3, 4] [f, y]).cfg.wf
    ∧ (sending [1, 2, 3, 4] [f, y]).tx.c.length ≤ (sending [1, 2, 3, 4] [f, y]).cfg.nCap := sending_ready _

theorem witness_SendCodes : { base with schedule := [1, 0, 2] }.Inv
    ∧ ({ base with schedule := [1, 0, 2] } : State).wellBehaved = true := ⟨{ base_inv with }, by decide⟩

/-- A byte that is not acknowledged is seen in the calls. -/
theorem witness_ErrorCodeCauses : (sending [1, 2] [y, y, f, f]).undisturbed ∧ (sending [1, 2] [y, y, f, f]).callsReturn
    ∧ base.cfg.wf ∧ hasDataNack (callsFrom (.endTransmission true) (sending [1, 2] [y, y, f, f])) = true := by decide

/-- Ownership is lost with bytes unsent. -/
theorem witness_SentBytesInOrder : (sending [1, 2] [y, y, y, f, f]).undisturbed
    ∧ (sending [1, 2] [y, y, y, f, f]).callsReturn ∧ base.cfg.wf
    ∧ sentBytes (callsFrom (.endTransmission true) (sending [1, 2] [y, y, y, f, f])) = [1] := by decide

theorem witness_OwnershipLossUnreported : (sending [1, 2] [y, y, y, f, f]).undisturbed
    ∧ (sending [1, 2] [y, y, y, f, f]).callsReturn ∧ base.cfg.wf
    ∧ lostOwnership (callsFrom (.endTransmission true) (sending [1, 2] [y, y, y, f, f])) = true := by decide

/-- END_TRANSMISSION about to read a byte that is no longer there. -/
def drained : State :=
  { base with ctx := { Ctx.idle with op := some .endTransmission, seq := .e2Read, sampled := true, k := 1, stop := true } }

theorem witness_ConcurrentDrain : drained.undisturbed ∧ drained.callsReturn ∧ drained.ctx.op = some .endTransmission
    ∧ drained.ctx.seq = .e2Read ∧ drained.ctx.hung = false ∧ drained.ctx.err = .none ∧ drained.ctx.sampled = true ∧ drained.ctx.ownerLost = false
    ∧ drained.tx.c = [] := by decide

/-- A responsive peer: the calls of the whole transaction meet law L5. -/
theorem witness_RoundTripResponsive : base.undisturbed ∧ base.callsReturn ∧ base.cfg.wf
    ∧ ([7, 8] : List Byte).length = (2 : Word).toNat ∧ ([7, 8] : List Byte).length ≤ base.cfg.nCap
    ∧ ∃ t : State, execAll [.beginTransmission 0x50, .writeBytes 2 [7, 8], .endTransmission true]
          { base with answers := [y, y, y, y, y, f] } = .next t
        ∧ Responsive t.trace := by
  refine ⟨by decide, by decide, by decide, by decide, by decide, _, rfl, ?_⟩
  intro c hc
  have calls : c ∈ ([.startTransaction 0x50 .write true, .hasBusOwnership true, .sendByte 7 true, .hasBusOwnership true,
    .sendByte 8 true, .issueBusStop, .hasTimedOut false] : List Call) := hc
  simp only [List.mem_cons, List.not_mem_nil, or_false] at calls
  rcases calls with rfl | rfl | rfl | rfl | rfl | rfl | rfl <;> trivial

theorem witness_WritesRejectedAfterEnd : (sending [1, 2, 3, 4] [y]).undisturbed ∧ (sending [1, 2, 3, 4] [y]).callsReturn
    ∧ (sending [1, 2, 3, 4] [y]).cfg.wf
    ∧ (sending [1, 2, 3, 4] [y]).tx.c.length ≤ (sending [1, 2, 3, 4] [y]).cfg.nCap
    ∧ ([7, 8] : List Byte).length = (2 : Word).toNat := by decide

theorem witness_RequestZero : base.undisturbed := rfl

/-- One byte, and the greatest quantity there is. -/
theorem witness_RequestFromWhole : base.undisturbed ∧ base.callsReturn ∧ base.cfg.wf ∧ (1 : Word) ≠ 0
    ∧ (0xFFFFFFFF : Word) ≠ 0 := by decide

theorem witness_ReadStartFailure : ∀ timeout : Bool, ({ base with answers := [f, ⟨timeout, 0⟩] } : State).undisturbed
    ∧ ({ base with answers := [f, ⟨timeout, 0⟩] } : State).callsReturn ∧ (3 : Word) ≠ 0
    ∧ (({ base with answers := [f, ⟨timeout, 0⟩] } : State).answer 0).flag = false
    ∧ (({ base with answers := [f, ⟨timeout, 0⟩] } : State).answer 1).flag = timeout := by decide

/-- A responsive peer that gives one byte, and one that gives two. -/
def givingOne : State := { base with answers := [y, recv 0x11, f] }
def giving : State := { base with answers := [y, recv 0x11, f, y, recv 0x22, f] }

theorem witness_ResponsiveRead_one : givingOne.undisturbed ∧ givingOne.callsReturn ∧ givingOne.cfg.wf ∧ (1 : Word) ≠ 0
    ∧ (givingOne.cfg.ownerUnsampled = .retained ∨ (1 : Word) ≠ 1)
    ∧ Responsive (callsFrom (.requestFrom 0x50 1 true) givingOne) := by
  refine ⟨rfl, rfl, by decide, by decide, by decide, ?_⟩
  intro c hc
  have calls : c ∈ ([.startTransaction 0x50 .read true, .receiveByte 0x11, .signalStop, .hasTimedOut false, .issueBusStop] :
    List Call) := hc
  simp only [List.mem_cons, List.not_mem_nil, or_false] at calls
  rcases calls with rfl | rfl | rfl | rfl | rfl <;> trivial

theorem witness_ResponsiveRead : giving.undisturbed ∧ giving.callsReturn ∧ giving.cfg.wf ∧ (2 : Word) ≠ 0
    ∧ (giving.cfg.ownerUnsampled = .retained ∨ (2 : Word) ≠ 1)
    ∧ Responsive (callsFrom (.requestFrom 0x50 2 true) giving) := by
  refine ⟨rfl, rfl, by decide, by decide, by decide, ?_⟩
  intro c hc
  have calls : c ∈ ([.startTransaction 0x50 .read true, .receiveByte 0x11, .hasTimedOut false, .hasBusOwnership true,
    .signalContinue, .receiveByte 0x22, .signalStop, .hasTimedOut false, .issueBusStop] : List Call) := hc
  simp only [List.mem_cons, List.not_mem_nil, or_false] at calls
  rcases calls with rfl | rfl | rfl | rfl | rfl | rfl | rfl | rfl | rfl <;> trivial

/-- All the bytes asked for, and an early end on a loss of ownership (RF6). -/
def losing : State := { base with answers := [y, recv 0x11, f, y, recv 0x22, f, f, f] }

theorem witness_CountAdjustment : giving.undisturbed ∧ giving.callsReturn ∧ giving.cfg.wf ∧ (2 : Word) ≠ 0
    ∧ (giving.answer 0).flag = true ∧ losing.undisturbed ∧ losing.callsReturn ∧ losing.cfg.wf ∧ (4 : Word) ≠ 0
    ∧ (losing.answer 0).flag = true ∧ lostOwnership (callsFrom (.requestFrom 0x50 4 true) losing) = true := by decide

/-- Both starts: acknowledged, and not. -/
theorem witness_ReceiveStopRule : giving.undisturbed ∧ giving.callsReturn ∧ giving.cfg.wf ∧ (1 : Word) ≠ 0
    ∧ (giving.answer 0).flag = true ∧ (({ base with answers := [f, f] } : State).answer 0).flag = false := by decide

theorem witness_ReceiveTimeout : giving.undisturbed ∧ giving.callsReturn ∧ giving.cfg.wf ∧ (2 : Word) ≠ 0
    ∧ (giving.answer 0).flag = true := by decide

/-- A timeout seen in the loop, and again after it, as the latch has it. -/
theorem witness_AnyTimeoutResets :
    ({ base with answers := [y, recv 0x11, y, y] } : State).undisturbed ∧ base.callsReturn ∧ base.cfg.wf
    ∧ base.tx.c.length ≤ base.cfg.nCap
    ∧ sawTimeout (callsFrom (.requestFrom 0x50 3 true) { base with answers := [y, recv 0x11, y, y] }) = true
    ∧ TimeoutLatch (callsFrom (.requestFrom 0x50 3 true) { base with answers := [y, recv 0x11, y, y] }) := by
  refine ⟨rfl, rfl, by decide, by decide, by decide, ?_⟩
  have calls : callsFrom (.requestFrom 0x50 3 true) { base with answers := [y, recv 0x11, y, y] }
      = [.startTransaction 0x50 .read true, .receiveByte 0x11, .hasTimedOut true, .signalStop, .hasTimedOut true,
          .issueBusStop, .disable, .configureAsMaster 100000, .enable] := by decide
  rw [calls]
  intro i j _ _ no
  have := List.mem_of_getElem? no
  simp at this

/-- An empty buffer, and one that holds a byte. -/
theorem witness_ReadingRx : base.cfg.wf ∧ base.rx.c.length ≤ base.cfg.nCap ∧ base.rx.c = 0xAA :: []
    ∧ ({ base with rx := ring [] } : State).rx.c = [] := by decide

theorem witness_ModeGate : ({ base with answers := [f] } : State).inService = false
    ∧ ({ base with answers := [f] } : State).callsReturn
    ∧ (({ base with answers := [f] } : State).answer 0).flag = false := by decide

theorem witness_NoEvent : (event quiet []).inService = false ∧ (event quiet []).callsReturn ∧ (event quiet []).reports quiet
    ∧ quiet.endsWriteSession = false ∧ quiet.am = false ∧ quiet.dr = false := ⟨rfl, rfl, rfl, rfl, rfl, rfl⟩

/-- A stop, and a restart to a master-write (S4), with and without a callback. -/
theorem witness_EndOfWriteSession : (event stopped []).inService = false ∧ (event stopped []).wellBehaved = true
    ∧ (event stopped []).reports stopped ∧ stopped.endsWriteSession = true
    ∧ (Snapshot.mk true false true false false).endsWriteSession = true
    ∧ (event stopped []).onReceiveHandler.registered = false
    ∧ ({ event stopped [] with onReceiveHandler := ⟨true, 1⟩ } : State).onReceiveHandler.registered = true :=
  ⟨rfl, rfl, rfl, rfl, rfl, rfl, rfl⟩

theorem witness_AddressMatch : (event matchedRead []).inService = false ∧ (event matchedRead []).wellBehaved = true
    ∧ (event matchedRead []).reports matchedRead ∧ matchedRead.endsWriteSession = false ∧ matchedRead.am = true
    ∧ matchedRead.rd = true ∧ (event matchedWrite []).reports matchedWrite ∧ matchedWrite.endsWriteSession = false
    ∧ matchedWrite.am = true ∧ matchedWrite.rd = false ∧ base.onRequestHandler.registered = false
    ∧ ({ base with onRequestHandler := ⟨true, 2⟩ } : State).onRequestHandler.registered = true :=
  ⟨rfl, rfl, rfl, rfl, rfl, rfl, rfl, rfl, rfl, rfl, rfl, rfl⟩

theorem witness_SupplyByte : (event readyRead [y]).inService = false ∧ (event readyRead [y]).callsReturn
    ∧ (event readyRead [y]).reports readyRead ∧ readyRead.endsWriteSession = false ∧ readyRead.am = false
    ∧ readyRead.dr = true ∧ readyRead.rd = true := ⟨rfl, rfl, rfl, rfl, rfl, rfl, rfl⟩

/-- A full `rx`, and one with room. -/
theorem witness_TakeByte : (event readyWrite [recv 9]).inService = false ∧ (event readyWrite [recv 9]).callsReturn
    ∧ (event readyWrite [recv 9]).reports readyWrite ∧ readyWrite.endsWriteSession = false ∧ readyWrite.am = false
    ∧ readyWrite.dr = true ∧ readyWrite.rd = false ∧ base.rx.c.length ≠ base.cfg.nCap
    ∧ ({ base with rx := ring [1, 2, 3, 4] } : State).rx.c.length = base.cfg.nCap :=
  ⟨rfl, rfl, rfl, rfl, rfl, rfl, rfl, by decide, by decide⟩

/-- A session of one byte. -/
def inbound : State :=
  { base with
    rx := ring []
    onReceiveHandler := ⟨true, 1⟩
    apps := [⟨⟨0x15, []⟩ :: ([0x41] : List Byte).map (fun _ => ⟨0x16, []⟩), true⟩]
    answers := ([0x41] : List Byte).flatMap
        (fun b => snapshotAnswers ⟨false, false, false, false, true⟩ ++ [⟨false, b⟩])
      ++ snapshotAnswers ⟨false, true, false, false, false⟩ ++ [] }

theorem witness_InboundSession : inbound.Inv ∧ inbound.callsReturn ∧ inbound.rx.c = []
    ∧ ([0x41] : List Byte).length ≤ inbound.cfg.nCap ∧ inbound.onReceiveHandler = ⟨true, 1⟩
    ∧ inbound.apps = ⟨⟨0x15, []⟩ :: ([0x41] : List Byte).map (fun _ => ⟨0x16, []⟩), true⟩ :: [] := by
  refine ⟨{ base_inv with rings := ?_, onReceive := fun h => by cases h }, rfl, rfl, by decide, rfl, rfl⟩
  constructor <;> unfold Ring.wf <;> decide

/-- Two bytes supplied, three asked for, the last one not acknowledged. -/
def outbound : State :=
  { base with
    onRequestHandler := ⟨true, 2⟩
    apps := [⟨[⟨encodeWord (.writeBytes 2 [0xC0, 0xC1]), [0xC0, 0xC1]⟩], true⟩]
    answers := snapshotAnswers ⟨true, false, false, true, false⟩
      ++ [true, true, false].flatMap (fun a => snapshotAnswers ⟨false, false, false, true, true⟩ ++ [⟨a, 0⟩]) ++ [] }

theorem witness_OutboundSession : outbound.Inv ∧ outbound.callsReturn
    ∧ ([0xC0, 0xC1] : List Byte).length = (2 : Word).toNat ∧ outbound.onRequestHandler = ⟨true, 2⟩
    ∧ outbound.apps = ⟨[⟨encodeWord (.writeBytes 2 [0xC0, 0xC1]), [0xC0, 0xC1]⟩], true⟩ :: [] :=
  ⟨{ base_inv with onRequest := fun h => by cases h }, rfl, rfl, rfl, rfl⟩

theorem witness_ServiceJustBefore : isMacro .beginMaster = true ∧ ({ event quiet [] with schedule := [0] } : State).Inv
    ∧ ({ event quiet [] with schedule := [0] } : State).schedule = 0 :: []
    ∧ nextOf (exec .service { event quiet [] with schedule := [0] }) ≠ none :=
  ⟨rfl, { base_inv with }, rfl, by decide⟩

/-- A call that never returns, in a command and in SERVICE; a stuck foreground with an event behind a command of the host;
and a callback that never returns. -/
theorem witness_HangsAreKept : ({ base with callsLeft := 0 :: [] } : State).callsLeft = 0 :: [] ∧ base.inService = false
    ∧ base.undisturbed ∧ (3 : Word) ≠ 0
    ∧ stuckState.stuck = true ∧ stuckState.presented = [⟨.host, ⟨0x15, []⟩⟩] ++ ⟨.event, ⟨0x30, []⟩⟩ :: []
    ∧ (∀ x ∈ ([⟨.host, ⟨0x15, []⟩⟩] : List Presented), x.port = .host) ∧ decodeWord 0x30 [] = .ok .service
    ∧ isMacro .beginMaster = true ∧ ({ base with schedule := [1] } : State).schedule = (0 + 1) :: []
    ∧ ({ event stopped [] with onReceiveHandler := ⟨true, 1⟩, apps := [⟨[⟨0x15, []⟩], false⟩] } : State).callsBack stopped
    ∧ (event stopped []).reports stopped ∧ (event stopped []).callsReturn
    ∧ (∀ c ∈ ([⟨0x15, []⟩] : List Command), c.admitted = true) :=
  ⟨rfl, rfl, rfl, by decide, rfl, rfl, by decide, rfl, rfl, rfl, .inl ⟨rfl, rfl⟩, rfl, rfl, by decide⟩

theorem witness_FieldsWrittenByTheirCommands : nextOf (exec (.beginTransmission 0x51) base) ≠ none := by decide
theorem witness_StopsAtMostOnce : nextOf (exec (.endTransmission true) (sending [1] [y, y, y, f])) ≠ none := by decide

theorem witness_InvKeptByStep : base.Inv
    ∧ nextOf (step { base with presented := [⟨.host, ⟨0x0000000000410011, []⟩⟩] }) ≠ none
    ∧ ({ base with presented := [⟨.host, ⟨0x0000000000410011, []⟩⟩] } : State).Inv := ⟨base_inv, by decide, { base_inv with }⟩

theorem witness_CommandsReturn : { base with schedule := [1, 0, 2] }.Inv
    ∧ ({ base with schedule := [1, 0, 2] } : State).wellBehaved = true ∧ base.ctx = Ctx.idle :=
  ⟨{ base_inv with }, by decide, rfl⟩

end Sys2Proof.Tests
end

/-! SUPPORT. How a command begins, goes on and ends: the context in which a command of several actions starts, what a
command of one action does, and where an action of the sequencer leaves the context. -/

namespace Sys2Proof.Machine

/-! ## Commands of several actions -/

/-- The context in which `exec` starts a command of several actions (R32, R33); no other command has one. -/
def firstCtx : Instr → Ctx
  | .beginMaster => startCtx .beginMaster .m0
  | .beginSlave address gc => { startCtx .beginSlave .s0 with addr := address, gc := gc }
  | .setClock rate => { startCtx .setClock .k0 with rate := rate }
  | .endBus => startCtx .endBus .n0
  | .beginTransmission address => { startCtx .beginTransmission .b0 with addr := address }
  | .writeByte value => { startCtx .writeByte .w0 with value := value }
  | .writeBytes count payload => { startCtx .writeBytes .x0 with count := count, payload := payload }
  | .endTransmission stopBit => { startCtx .endTransmission .e0 with stop := stopBit }
  | .requestFrom address quantity stopBit =>
    { startCtx .requestFrom .f0 with addr := address, q := quantity, stop := stopBit }
  | .available | .read | .peek | .onReceive _ _ | .onRequest _ _ | .service | .bufStore _ _ | .bufRead _ | .bufPeek _
  | .bufAvailable _ | .bufIsFull _ | .bufClear _ => Ctx.idle

theorem exec_eq_execFrom {i : Instr} (several : isMacro i = true) (s : State) : exec i s = execFrom (firstCtx i) s := by
  cases i <;> cases several <;> rfl

theorem firstCtx_seq {i : Instr} (several : isMacro i = true) : (firstCtx i).seq ≠ .idle := by
  cases i <;> cases several <;> simp [firstCtx, startCtx]

@[simp] theorem firstCtx_hung (i : Instr) : (firstCtx i).hung = false := by cases i <;> rfl

theorem firstCtx_onCourse (i : Instr) : OnCourse (firstCtx i) := by cases i <;> trivial

theorem cmdClass_of_isMacro {i : Instr} (several : isMacro i = true) : i.opcode.cmdClass = .host := by
  cases i <;> cases several <;> rfl

theorem start_running {i : Instr} (several : isMacro i = true) (s : State) : (s.start (firstCtx i)).running = true := by
  simp [State.running, State.start, firstCtx_seq several]

/-! ## Outcomes -/

theorem outcome_of_wellBehaved {before : State} (h : before.wellBehaved = true) (after : State) :
    outcome before after = .next after := by
  simp [outcome, h]

/-- What answers a next state has met no stop. -/
theorem outcome_next_stop {before after t : State} (keeps : before.wellBehaved = true → after.wellBehaved = true)
    (h : outcome before after = .next t) : t = after ∧ t.stop = none := by
  have same := outcome_next h
  refine ⟨same, ?_⟩
  rw [outcome_eq before after keeps] at h
  rw [same]
  split at h
  · assumption
  · cases h
  · cases h

/-- A SERVICE step that starts ends with the delivery of its result (R241). -/
theorem serviceStep_leaves {s : State} (h : s.inService = false) :
    ∃ u, Served s u ∧ serviceStep s = u.leaveService := by
  have entered : Served s (s.enterService.askFlag .isSlaveMode).2 :=
    Served.trans (t := s.enterService) { Served.refl s with } (Served.askFlag _ fun _ => ⟨rfl, by simp [Call.request]⟩)
  refine ⟨_, entered.trans ?_, by simp only [serviceStep, h, Bool.false_eq_true, ↓reduceIte]; rfl⟩
  split
  · exact (Served.readSnapshot _).trans (Served.serviceCases _ _)
  · exact Served.refl _

/-! ## Commands of one action -/

/-- The registers outside the buffers that a command writes (R25, R27, R28), with the values its operands give. -/
def setRegisters (i : Instr) (s : State) : State :=
  match i with
  | .beginTransmission address => { s with targetAddress := address }
  | .setClock rate => { s with activeClockRate := rate }
  | .onReceive register handle => { s with onReceiveHandler := slotOf register handle }
  | .onRequest register handle => { s with onRequestHandler := slotOf register handle }
  | _ => s

/-- A command of one action, SERVICE apart, writes its registers, works on the buffers and delivers one result at its
port. -/
theorem exec_direct {i : Instr} (single : isMacro i = false) (notService : i ≠ .service) (s : State) :
    ∃ (u : State) (v : Word), exec i s = .next (u.deliver (portOf i.opcode.cmdClass) v)
      ∧ Served (setRegisters i s) u ∧ u.results = s.results ∧ u.inService = s.inService ∧ u.stop = s.stop := by
  cases i with
  | available => exact ⟨s, _, rfl, Served.refl s, rfl, rfl, rfl⟩
  | read => exact ⟨_, _, rfl, Served.read .rx s, rfl, rfl, rfl⟩
  | peek => exact ⟨s, _, rfl, Served.refl s, rfl, rfl, rfl⟩
  | onReceive register handle => exact ⟨_, _, rfl, Served.refl _, rfl, rfl, rfl⟩
  | onRequest register handle => exact ⟨_, _, rfl, Served.refl _, rfl, rfl, rfl⟩
  | bufStore sel v => exact ⟨_, _, rfl, Served.store sel v s, rfl, rfl, rfl⟩
  | bufRead sel => exact ⟨_, _, rfl, Served.read sel s, rfl, rfl, rfl⟩
  | bufPeek sel => exact ⟨s, _, rfl, Served.refl s, rfl, rfl, rfl⟩
  | bufAvailable sel => exact ⟨s, _, rfl, Served.refl s, rfl, rfl, rfl⟩
  | bufIsFull sel => exact ⟨s, _, rfl, Served.refl s, rfl, rfl, rfl⟩
  | bufClear sel => exact ⟨_, _, rfl, Served.clear sel s, rfl, rfl, rfl⟩
  | service => exact absurd rfl notService
  | _ => cases single

/-- Everything an executed command that answers a next state can have been. -/
theorem exec_next {i : Instr} {s t : State} (h : exec i s = .next t) :
    (isMacro i = true ∧ t = runCommand (s.start (firstCtx i)) ∧ t.stop = none)
      ∨ (i = .service ∧ t = serviceStep { s with stop := none } ∧ t.stop = none)
      ∨ Served (setRegisters i s) t ∧ t.inService = s.inService ∧ t.stop = s.stop := by
  by_cases several : isMacro i = true
  · rw [exec_eq_execFrom several] at h
    exact .inl ⟨several, outcome_next_stop (State.wellBehaved_run _) h⟩
  · by_cases service : i = .service
    · subst service
      exact .inr (.inl ⟨rfl, outcome_next_stop State.wellBehaved_serviceStep h⟩)
    · obtain ⟨u, v, next, served, _, inService, stop⟩ := exec_direct (Bool.not_eq_true _ ▸ several) service s
      cases next.symm.trans h
      exact .inr (.inr ⟨served.trans (Served.deliver _ _ u), inService, stop⟩)

/-! ## Actions of the sequencer -/

/-- The labels whose action writes a register outside the buffers: `targetAddress` (R125) or `activeClockRate` (R122). -/
def Label.writesRegister (l : Label) : Prop := l = .b0 ∨ l = .k0

/-- Where an action leaves a running command: at a later label of it, with no result yet and no register left to write;
or at its return, with a result for the host. -/
theorem act_goesOn_or_returns {s : State} (busy : s.ctx.seq ≠ .idle) :
    ((act s).ctx.seq ≠ .idle ∧ ¬(act s).ctx.seq.writesRegister ∧ (act s).ctx.hung = s.ctx.hung
        ∧ (act s).results = s.results)
      ∨ ∃ v, (act s).ctx = Ctx.idle ∧ (act s).results = s.results ++ [⟨.host, v⟩] := by
  obtain ⟨d, hd⟩ := s.ownerOk_ctx
  obtain ⟨d', hd'⟩ := (s.call .signalStop).ownerOk_ctx
  cases hl : s.ctx.seq <;> simp only [act, hl]
  case idle => exact absurd hl busy
  all_goals
    simp only [actM0, actM1, actS0, actS1, actK0, actK1, actK2, actK3, actN0, actZ0, actZ1, actZ2, actZClose, actB0, actB1,
      actB2, actW0, actW1, actX0, actX1, actX2, actX3, actE0, actE1, actE2, actE2Own, actE2Read, actE2Send, actE2Clear,
      actE4, actE5, actE6, actF0, actF1, actF2, actF3, actF3Store, actF4, actF4Own, actF5, actF5Receive, actF5Store, actF6,
      actF7, actF7Stop, actF8, actF9, actF10]
    repeat' split
    all_goals simp [Label.writesRegister, hd, hd']

/-! ## Runs and steps -/

/-- An induction over a command's run in which only a command in the middle is stepped. -/
theorem run_induction_running (P : State → Prop)
    (step : ∀ s, s.running = true → P s → P (advance (serviceSlot s))) (n : Nat) (s : State) (h : P s) : P (run n s) := by
  induction n generalizing s with
  | zero => exact h
  | succ n ih =>
    by_cases running : s.running = true
    · rw [run_succ n s running]
      exact ih _ (step s running h)
    · rwa [run_stopped _ s (Bool.not_eq_true _ ▸ running)]

theorem State.running_iff (s : State) :
    s.running = true ↔ s.ctx.seq ≠ .idle ∧ s.ctx.hung = false ∧ s.stop = none := by
  simp [State.running, and_assoc]

theorem serviceSlot_ctx (s : State) : (serviceSlot s).ctx = s.ctx := (serviceSlot_served s).ctx

/-- Everything a step that answers a next state can be: the rest of the command that runs, a wait, or the command presented
next. -/
theorem step_next {s t : State} (h : step s = .next t) :
    (t = runCommand { s with stop := none } ∧ t.stop = none) ∨ t = s
      ∨ ∃ (i : Instr) (rest : List Presented), exec i { s with presented := rest } = .next t := by
  unfold step at h
  split at h
  · exact .inl (outcome_next_stop (State.wellBehaved_run _) h)
  · split at h
    · exact .inr (.inl (by cases h; rfl))
    · split at h
      · cases h
      · exact .inr (.inr ⟨_, _, h⟩)

end Sys2Proof.Machine

/-! THEOREMS. The invariant of the machine holds at creation and is kept by every step. Inside a command's run a stop may be met
before the run ends in it, so the run keeps the invariant but for its clause about stops. -/

namespace Sys2Proof.Machine

/-- The invariant but for its clause that no stop is met. -/
def State.InvButStop (s : State) : Prop := State.Inv { s with stop := none }

theorem State.Inv.butStop {s : State} (h : s.Inv) : s.InvButStop := { h with stop := rfl }

theorem State.InvButStop.inv {s : State} (h : s.InvButStop) (stop : s.stop = none) : s.Inv := { h with stop := stop }

/-- What the interrupt agent does keeps the invariant when it ends with `inService` clear. -/
theorem State.InvButStop.served {s t : State} (h : s.InvButStop) (k : Served s t) (inService : t.inService = false) :
    t.InvButStop where
  cfg := by rw [State.cfg, k.cfg]; exact h.cfg
  rings := k.rings h.rings
  onReceive := k.onReceiveHandler ▸ h.onReceive
  onRequest := k.onRequestHandler ▸ h.onRequest
  inService := inService
  stop := rfl
  hung := k.ctx ▸ h.hung

theorem State.InvButStop.serviceSlot {s : State} (h : s.InvButStop) : (serviceSlot s).InvButStop :=
  State.InvButStop.served (s := { s with schedule := s.schedule.tail }) { h with } (serviceSlot_served s)
    (serviceSlot_inService s h.inService)

theorem State.InvButStop.act {s : State} (h : s.InvButStop) (busy : s.ctx.seq ≠ .idle) : (act s).InvButStop where
  cfg := by rw [(act_acted s).cfg]; exact h.cfg
  rings := (act_acted s).rings h.rings
  onReceive := (act_acted s).onReceiveHandler ▸ h.onReceive
  onRequest := (act_acted s).onRequestHandler ▸ h.onRequest
  inService := (act_acted s).inService.trans h.inService
  stop := rfl
  hung := by
    rcases act_goesOn_or_returns busy with ⟨on, _⟩ | ⟨v, idle, _⟩
    · exact fun _ => on
    · simp [idle, Ctx.idle]

theorem State.InvButStop.advance {s : State} (h : s.InvButStop) (busy : s.ctx.seq ≠ .idle) : (advance s).InvButStop := by
  rcases advance_cases s with e | ⟨_, ⟨e, _⟩ | ⟨e, _⟩⟩ <;> rw [e]
  · exact h.act busy
  · exact h
  · exact { h with hung := fun _ => busy }

theorem State.InvButStop.runCommand {s : State} (h : s.InvButStop) : (runCommand s).InvButStop :=
  run_induction_running State.InvButStop
    (fun s running inv => inv.serviceSlot.advance (serviceSlot_ctx s ▸ (s.running_iff.mp running).1)) _ s h

/-- R181, R182: a registration leaves a canonical slot. -/
theorem slotOf_wf (register : Bool) (handle : Word) : (slotOf register handle).wf :=
  fun (removed : register = false) => by simp [slotOf, removed]

theorem State.Inv.setRegisters (i : Instr) {s : State} (h : s.Inv) : (setRegisters i s).Inv := by
  cases i with
  | onReceive register handle => exact { h with onReceive := slotOf_wf register handle }
  | onRequest register handle => exact { h with onRequest := slotOf_wf register handle }
  | _ => exact { h with }

/-- Every command that answers a next state keeps the invariant. -/
theorem State.Inv.exec {i : Instr} {s t : State} (h : s.Inv) (next : exec i s = .next t) : t.Inv := by
  rcases exec_next next with ⟨_, e, stop⟩ | ⟨_, e, stop⟩ | ⟨served, inService, stop⟩
  · have started : (s.start (firstCtx i)).InvButStop := { h.butStop with hung := by simp [State.start] }
    exact State.InvButStop.inv (e ▸ started.runCommand) stop
  · have served := State.InvButStop.served (s := { s with stop := none }) h.butStop (Served.serviceStep _)
      (serviceStep_inService _ h.inService)
    exact State.InvButStop.inv (e ▸ served) stop
  · exact ((h.setRegisters i).butStop.served served (inService.trans h.inService)).inv (stop.trans h.stop)

/-- Settles O58: the capacity made from the free value is legal, and the buffers are empty over their storage. -/
theorem invAtReset : Obligations.InvAtReset where
  cfg := by simp only [State.reset, Config.wf, Config.nCapAtReset]; omega
  rings := State.reset_ringsWf
  onReceive := fun _ => rfl
  onRequest := fun _ => rfl
  inService := rfl
  stop := rfl
  hung := fun h => by cases h

/-- Settles O59: the three things a step can be each keep the invariant. -/
theorem invKeptByStep : Obligations.InvKeptByStep := by
  intro s t inv next
  rcases step_next next with ⟨e, stop⟩ | rfl | ⟨i, rest, taken⟩
  · exact State.InvButStop.inv (e ▸ State.InvButStop.runCommand (s := { s with stop := none }) inv.butStop) stop
  · exact inv
  · exact State.Inv.exec (s := { s with presented := rest }) { inv with } taken

end Sys2Proof.Machine

/-! THEOREMS. Which command writes which register. A state at a label that is about to write a register is read by the value
it will write (`registersDue`); read so, no action and no SERVICE step changes the registers. -/

namespace Sys2Proof.Machine

/-- The registers outside the buffers and the status flag, and the parameters (R9, R25, R27, R28). -/
structure Registers where
  cfg : Config
  targetAddress : Byte
  activeClockRate : Word
  onReceiveHandler : HandlerSlot
  onRequestHandler : HandlerSlot

def State.registers (s : State) : Registers :=
  ⟨s.cfg, s.targetAddress, s.activeClockRate, s.onReceiveHandler, s.onRequestHandler⟩

/-- The registers once the action at the current label has written its own, where it writes one (R122, R125). -/
def State.registersDue (s : State) : Registers :=
  { s.registers with
    targetAddress := if s.ctx.seq = .b0 then s.ctx.addr else s.targetAddress
    activeClockRate := if s.ctx.seq = .k0 then s.ctx.rate else s.activeClockRate }

/-- Where the current label writes no register, none is due. -/
theorem State.registersDue_of_not_writes {s : State} (h : ¬s.ctx.seq.writesRegister) : s.registersDue = s.registers := by
  obtain ⟨b0, k0⟩ := not_or.mp h
  simp [State.registersDue, State.registers, b0, k0]

theorem Served.registers {s t : State} (h : Served s t) : t.registers = s.registers := by
  simp [State.registers, h.cfg, h.targetAddress, h.activeClockRate, h.onReceiveHandler, h.onRequestHandler]

theorem serviceSlot_registersDue (s : State) : (serviceSlot s).registersDue = s.registersDue := by
  have served := serviceSlot_served s
  simp [State.registersDue, State.registers, served.cfg, served.targetAddress, served.activeClockRate,
    served.onReceiveHandler, served.onRequestHandler, served.ctx]

theorem act_registers (s : State) : (act s).registers = s.registersDue := by
  have acted := act_acted s
  simp [State.registersDue, State.registers, acted.cfg, acted.targetAddress, acted.activeClockRate,
    acted.onReceiveHandler, acted.onRequestHandler]

/-- The actions that write a register make no call, so they meet no stop. -/
theorem act_stop_of_writes {s : State} (h : s.ctx.seq.writesRegister) : (act s).stop = s.stop := by
  rcases h with label | label <;> simp [act, label, actB0, actK0]

/-- The foreground's next action writes what is due; and unless a stop keeps it from starting, it leaves no register to
write. -/
theorem advance_registers {s : State} (busy : s.ctx.seq ≠ .idle) :
    (advance s).registersDue = s.registersDue
      ∧ ((advance s).stop = none → ¬(advance s).ctx.seq.writesRegister) := by
  have done : ¬(act s).ctx.seq.writesRegister := by
    rcases act_goesOn_or_returns busy with ⟨_, later, _⟩ | ⟨v, idle, _⟩
    · exact later
    · simp [idle, Ctx.idle, Label.writesRegister]
  rcases advance_cases s with e | ⟨_, ⟨e, met⟩ | ⟨e, hangs⟩⟩ <;> rw [e]
  · exact ⟨by rw [State.registersDue_of_not_writes done, act_registers], fun _ => done⟩
  · exact ⟨rfl, fun stop => by simp [stop] at met⟩
  · refine ⟨rfl, fun (stop : s.stop = none) (writes : s.ctx.seq.writesRegister) => ?_⟩
    simp [act_stop_of_writes writes, stop] at hangs

/-- A run of at least one action that meets no stop has written what was due at its start, and nothing else. -/
theorem run_registers (n : Nat) {s : State} (running : s.running = true) (stop : (run (n + 1) s).stop = none) :
    (run (n + 1) s).registers = s.registersDue := by
  have action : ∀ u : State, u.running = true → (advance (serviceSlot u)).registersDue = u.registersDue
      ∧ ((advance (serviceSlot u)).stop = none → ¬(advance (serviceSlot u)).ctx.seq.writesRegister) := fun u hu => by
    rw [← serviceSlot_registersDue u]
    exact advance_registers (serviceSlot_ctx u ▸ (u.running_iff.mp hu).1)
  rw [run_succ n s running] at stop ⊢
  obtain ⟨due, done⟩ := run_induction_running
    (fun t => t.registersDue = s.registersDue ∧ (t.stop = none → ¬t.ctx.seq.writesRegister))
    (fun u hu h => ⟨(action u hu).1.trans h.1, (action u hu).2⟩) n _ (action s running)
  rw [← due, State.registersDue_of_not_writes (done stop)]

theorem runCommand_registers {s : State} (running : s.running = true) (stop : (runCommand s).stop = none) :
    (runCommand s).registers = s.registersDue :=
  run_registers _ running stop

theorem start_registersDue {i : Instr} (several : isMacro i = true) (s : State) :
    (s.start (firstCtx i)).registersDue = (setRegisters i s).registers := by
  cases i <;> cases several <;> rfl

/-- A command that answers a next state has written its own registers and no other. -/
theorem exec_registers {i : Instr} {s t : State} (h : exec i s = .next t) : t.registers = (setRegisters i s).registers := by
  rcases exec_next h with ⟨several, rfl, stop⟩ | ⟨rfl, rfl, _⟩ | ⟨served, _⟩
  · rw [runCommand_registers (start_running several s) stop, start_registersDue several]
  · exact (Served.serviceStep _).registers
  · exact served.registers

/-- Settles O56: the registers after a command are those that `setRegisters` gives. -/
theorem fieldsWrittenByTheirCommands : Obligations.FieldsWrittenByTheirCommands := by
  intro i s t next
  have written := exec_registers next
  simp only [State.registers, Registers.mk.injEq] at written
  obtain ⟨cfg, target, rate, receive, request⟩ := written
  rw [cfg, target, rate, receive, request]
  cases i <;> exact ⟨rfl, rfl, rfl, rfl, rfl⟩

end Sys2Proof.Machine

/-! THEOREMS. Every command returns where calls and callbacks do. -/

namespace Sys2Proof.Machine

/-- The results after `old` end with one for the host, and no command is running. -/
def State.Returned (old : List Result) (t : State) : Prop :=
  t.ctx = Ctx.idle ∧ ∃ (earlier : List Result) (v : Word), t.results = old ++ earlier ++ [⟨.host, v⟩]

theorem State.running_of_wellBehaved {s : State} (h : s.wellBehaved = true) (free : s.ctx.hung = false)
    (busy : s.ctx.seq ≠ .idle) : s.running = true :=
  s.running_iff.mpr ⟨busy, free, ((State.wellBehaved_iff s).mp h).1⟩

/-- In a well-behaved state a command's run is still at a label of the command and not stuck, or at its return with a
result for the host. -/
theorem run_goesOn_or_returns (n : Nat) {s : State} (h : s.wellBehaved = true) (free : s.ctx.hung = false)
    (busy : s.ctx.seq ≠ .idle) : (run n s).running = true ∨ (run n s).Returned s.results := by
  induction n generalizing s with
  | zero => exact .inl (State.running_of_wellBehaved h free busy)
  | succ n ih =>
    have slot := State.wellBehaved_serviceSlot h
    obtain ⟨stop, calls, _⟩ := (State.wellBehaved_iff _).mp slot
    obtain ⟨more, grown⟩ := (serviceSlot_served s).results
    have ctx := serviceSlot_ctx s
    rw [run_succ n s (State.running_of_wellBehaved h free busy), advance_returns stop calls]
    rcases act_goesOn_or_returns (ctx.symm ▸ busy) with ⟨on, _, hung, same⟩ | ⟨v, idle, result⟩
    · refine (ih (State.wellBehaved_act slot) (by rw [hung, ctx, free]) on).imp_right ?_
      rintro ⟨ended, earlier, v, results⟩
      exact ⟨ended, more ++ earlier, v, by rw [results, same, grown]; simp⟩
    · rw [run_stopped n _ (by simp [State.running, idle, Ctx.idle])]
      exact .inr ⟨idle, more, v, by rw [result, grown]⟩

/-- A command of several actions returns. -/
theorem execFrom_returns {c : Ctx} {s : State} (rings : s.ringsWf) (h : (s.start c).wellBehaved = true)
    (course : OnCourse c) (free : c.hung = false) (busy : c.seq ≠ .idle) :
    ∃ t, execFrom c s = .next t ∧ t.Returned s.results := by
  refine ⟨_, outcome_of_wellBehaved h _, ?_⟩
  have ended : (runCommand (s.start c)).running = false := runCommand_ends _ course rings
  exact (run_goesOn_or_returns _ h free busy).resolve_left (by rw [← runCommand, ended]; exact Bool.false_ne_true)

/-- Settles O60: a command of several actions ends within its fuel and only at its return; the others deliver their result
in their one action. -/
theorem commandsReturn : Obligations.CommandsReturn := by
  intro i s inv behaved idle
  by_cases several : isMacro i = true
  · have started : (s.start (firstCtx i)).wellBehaved = true := State.wellBehaved_congr behaved inv.stop.symm rfl rfl
    obtain ⟨t, next, ended, earlier, v, results⟩ := execFrom_returns inv.rings started (firstCtx_onCourse i)
      (firstCtx_hung i) (firstCtx_seq several)
    refine ⟨t, earlier, v, by rw [exec_eq_execFrom several, next], ended, ?_⟩
    rw [results, cmdClass_of_isMacro several, portOf]
  · by_cases service : i = .service
    · subst service
      have quiet : ({ s with stop := none } : State) = s := by rw [← inv.stop]
      obtain ⟨u, served, leaves⟩ := serviceStep_leaves inv.inService
      obtain ⟨earlier, results⟩ := served.results
      refine ⟨u.leaveService, earlier, 0, ?_, by rw [State.leaveService_ctx, served.ctx, idle], ?_⟩
      · rw [exec, execService, quiet, outcome_of_wellBehaved behaved, leaves]
      · rw [State.leaveService_results, results]
        rfl
    · obtain ⟨u, v, next, served, results, _⟩ := exec_direct (Bool.not_eq_true _ ▸ several) service s
      refine ⟨_, [], v, next, ?_, by rw [State.deliver, results, List.append_nil]⟩
      have ctx : (setRegisters i s).ctx = s.ctx := by cases i <;> rfl
      exact served.ctx.trans (ctx.trans idle)

end Sys2Proof.Machine

/-! THEOREMS. SERVICE and the sequencer context (R34, R239, R241). -/

namespace Sys2Proof.Machine

/-- Settles O53: the SERVICE step does the same under every context and leaves it as it is, so the two runs meet the same
stop, and the stop they meet decides how SERVICE ends. -/
theorem serviceIgnoresSequencer : Obligations.ServiceIgnoresSequencer := by
  intro c s
  let u : State := { s with stop := none }
  have stepped : serviceStep (u.withCtx c) = (serviceStep u).withCtx c := serviceStep_withCtx c u
  have sameStop : ((serviceStep u).withCtx c).stop = (serviceStep u).stop := rfl
  have left : exec .service (s.withCtx c) = outcome (u.withCtx c) (serviceStep (u.withCtx c)) := rfl
  have right : exec .service s = outcome u (serviceStep u) := rfl
  change exec .service (s.withCtx c) = _
  rw [left, right, outcome_serviceStep, outcome_serviceStep, stepped, sameStop]
  cases (serviceStep u).stop with
  | none => rfl
  | some x =>
    cases x with
    | fault f => rfl
    | refusal r => rfl

end Sys2Proof.Machine

/-! THEOREMS. The order of the bytes in a buffer (R52, R100 to R102). -/

namespace Sys2Proof.Machine

theorem execAll_cons_next {i : Instr} {s t : State} (h : exec i s = .next t) (l : List Instr) :
    execAll (i :: l) s = execAll l t := by
  simp [execAll, h]

/-- Bytes that fit are stored one behind the other, each with the result 1; then the other commands run (R101). -/
theorem execAll_bufStore (sel : BufSel) (bytes : List Byte) (more : List Instr) (s : State)
    (fits : (s.buf sel).c.length + bytes.length ≤ s.cfg.nCap) :
    ∃ t : State, execAll (bytes.map (.bufStore sel) ++ more) s = execAll more t
      ∧ t.results = s.results ++ bytes.map (fun _ => ⟨.buffer, 1⟩) ∧ (t.buf sel).c = (s.buf sel).c ++ bytes := by
  induction bytes generalizing s with
  | nil => exact ⟨s, by simp⟩
  | cons v rest ih =>
    rw [List.length_cons] at fits
    have room : (s.buf sel).c.length ≠ s.cfg.nCap := by omega
    have stored : (((s.storeByte sel v).2.deliver .buffer 1).buf sel).c = (s.buf sel).c ++ [v] := by
      change (((s.storeByte sel v).2).buf sel).c = _
      simp [State.storeByte, room]
    have next : exec (.bufStore sel v) s = .next ((s.storeByte sel v).2.deliver .buffer 1) := by
      simp [exec, execBufStore, room, boolResult]
    obtain ⟨t, run, results, held⟩ := ih ((s.storeByte sel v).2.deliver .buffer 1) (by
      rw [stored, List.length_append, List.length_singleton, Nat.add_assoc, Nat.add_comm 1]
      exact fits)
    exact ⟨t, (execAll_cons_next next _).trans run, by simp [results],
      by rw [held, stored, List.append_assoc, List.singleton_append]⟩

/-- As many reads as a buffer holds bytes deliver these bytes, oldest first, and leave it empty (R102). -/
theorem execAll_bufRead (sel : BufSel) (bytes : List Byte) (s : State) (held : (s.buf sel).c = bytes) :
    ∃ t : State, execAll (List.replicate bytes.length (.bufRead sel)) s = .next t
      ∧ t.results = s.results ++ bytes.map (fun b => ⟨.buffer, b.setWidth 32⟩) ∧ (t.buf sel).c = [] := by
  induction bytes generalizing s with
  | nil => exact ⟨s, rfl, by simp, held⟩
  | cons v rest ih =>
    have next : exec (.bufRead sel) s = .next ((s.readByte sel).2.deliver .buffer (v.setWidth 32)) := by
      simp [exec, execBufRead, held, byteResult]
    obtain ⟨t, run, results, empty⟩ := ih ((s.readByte sel).2.deliver .buffer (v.setWidth 32)) (by
      change (((s.readByte sel).2).buf sel).c = rest
      simp [State.readByte, held])
    exact ⟨t, (execAll_cons_next next _).trans run, by simp [results], empty⟩

/-- Settles O15: the stores append the bytes to those held, and the reads take all of them from the front. -/
theorem fifoOrder : Obligations.FifoOrder := by
  intro sel bytes s fits
  obtain ⟨t, stores, stored, held⟩ := execAll_bufStore sel bytes
    (List.replicate ((s.buf sel).c.length + bytes.length) (.bufRead sel)) s fits
  obtain ⟨u, reads, read, empty⟩ := execAll_bufRead sel _ t held
  rw [List.length_append] at reads
  exact ⟨u, stores.trans reads, by rw [read, stored], empty⟩

end Sys2Proof.Machine

/-! THEOREMS. A SERVICE step just before a command's first action (R57, R58). SERVICE neither reads nor writes the fields
of the foreground agent, so it does the same before the command is presented and after it has started. -/

namespace Sys2Proof.Machine

/-! ## SERVICE and the fields of the foreground -/

/-- The state with the sequencer context and the schedule of the state `o`, the fields that only the foreground uses. -/
def State.beside (o s : State) : State := { s with ctx := o.ctx, schedule := o.schedule }

@[simp] theorem State.beside_transmissionOpen (o s : State) : (o.beside s).transmissionOpen = s.transmissionOpen := rfl
@[simp] theorem State.beside_inService (o s : State) : (o.beside s).inService = s.inService := rfl
@[simp] theorem State.beside_apps (o s : State) : (o.beside s).apps = s.apps := rfl
@[simp] theorem State.beside_onReceiveHandler (o s : State) : (o.beside s).onReceiveHandler = s.onReceiveHandler := rfl
@[simp] theorem State.beside_onRequestHandler (o s : State) : (o.beside s).onRequestHandler = s.onRequestHandler := rfl
@[simp] theorem State.beside_isFull (o s : State) :
    (o.beside s).rx.isFull (o.beside s).cfg.nCap = s.rx.isFull s.cfg.nCap := rfl

theorem writeBytesNow_beside (l : List Byte) (k : Word) (o s : State) :
    writeBytesNow l k (o.beside s) = (o.beside (writeBytesNow l k s).1, (writeBytesNow l k s).2) := by
  induction l generalizing k s with
  | nil => rfl
  | cons v rest ih =>
    have accepted : ((o.beside s).storeByte .tx v).1 = (s.storeByte .tx v).1 := rfl
    have stored : ((o.beside s).storeByte .tx v).2 = o.beside (s.storeByte .tx v).2 := rfl
    unfold writeBytesNow
    rw [State.beside_transmissionOpen, accepted, stored, ih]
    repeat' split
    all_goals rfl

theorem appMeaning_beside {i : Instr} {f : State → State × Word} (h : appMeaning i = some f) (o s : State) :
    f (o.beside s) = (o.beside (f s).1, (f s).2) := by
  cases i with
  | writeByte v =>
    cases h
    unfold writeByteNow
    rw [State.beside_transmissionOpen]
    split <;> rfl
  | writeBytes n l => cases h; exact writeBytesNow_beside l 0 o s
  | available => cases h; rfl
  | read => cases h; rfl
  | peek => cases h; rfl
  | _ => cases h

theorem appCommand_beside (x : Command) (o s : State) : appCommand (o.beside s) x = o.beside (appCommand s x) := by
  unfold appCommand
  split
  · rfl
  · split
    · rfl
    · rename_i f meaning
      rw [appMeaning_beside meaning]
      rfl

theorem foldl_appCommand_beside (l : List Command) (o s : State) :
    l.foldl appCommand (o.beside s) = o.beside (l.foldl appCommand s) :=
  List.foldl_hom (o.beside) (fun s x => appCommand_beside x o s)

theorem runApp_beside (r : AppRun) (o s : State) : runApp r (o.beside s) = o.beside (runApp r s) := by
  unfold runApp
  simp only [foldl_appCommand_beside]
  split <;> rfl

theorem callback_beside (c : Call) (o s : State) : (o.beside s).callback c = o.beside (s.callback c) := by
  unfold State.callback
  rw [State.beside_apps]
  split
  · rfl
  · rename_i r rest _
    exact runApp_beside r o { s.record c with apps := rest }

theorem serviceStop_beside (o s : State) : serviceStop (o.beside s) = o.beside (serviceStop s) := by
  have acked : ackEvent (o.beside s) = o.beside (ackEvent s) := rfl
  simp only [serviceStop, acked, callback_beside, State.beside_onReceiveHandler]
  split <;> rfl

theorem serviceAddress_beside (rd : Bool) (o s : State) :
    serviceAddress rd (o.beside s) = o.beside (serviceAddress rd s) := by
  have acked : ackEvent (o.beside s) = o.beside (ackEvent s) := rfl
  have opened (t : State) : ((o.beside t).clearBuf .tx).setOpen true = o.beside ((t.clearBuf .tx).setOpen true) := rfl
  simp only [serviceAddress, acked, opened, callback_beside, State.beside_onRequestHandler]
  repeat' split
  all_goals rfl

theorem serviceTake_beside (o s : State) : serviceTake (o.beside s) = o.beside (serviceTake s) := by
  unfold serviceTake
  rw [State.beside_isFull]
  split <;> rfl

theorem serviceCases_beside (p : Snapshot) (o s : State) : serviceCases p (o.beside s) = o.beside (serviceCases p s) := by
  have supplied : serviceSupply (o.beside s) = o.beside (serviceSupply s) := rfl
  unfold serviceCases
  rw [serviceStop_beside, serviceAddress_beside, serviceTake_beside, supplied]
  simp only [apply_ite o.beside]

/-- A SERVICE step neither reads nor writes the sequencer context and the schedule. -/
theorem serviceStep_beside (o s : State) : serviceStep (o.beside s) = o.beside (serviceStep s) := by
  have snapshot (t : State) : readSnapshot (o.beside t) = ((readSnapshot t).1, o.beside (readSnapshot t).2) := rfl
  have mode : (o.beside s).enterService.askFlag .isSlaveMode
      = ((s.enterService.askFlag .isSlaveMode).1, o.beside (s.enterService.askFlag .isSlaveMode).2) := rfl
  unfold serviceStep
  rw [State.beside_inService, mode]
  simp only [snapshot, serviceCases_beside]
  repeat' split
  all_goals rfl

/-! ## Two runs that agree after their first slot -/

theorem serviceSlot_cons {s : State} {n : Nat} {rest : List Nat} (h : s.schedule = n :: rest) :
    serviceSlot s = serviceSteps n { s with schedule := rest } := by
  simp [serviceSlot, h]

/-- Two commands under way that are in the same state after the SERVICE steps before their next action end alike, whatever
fuel each is given. -/
theorem runCommand_eq_of_serviceSlot {s t : State} (hs : s.running = true) (ht : t.running = true)
    (courseS : OnCourse s.ctx) (courseT : OnCourse t.ctx) (ringsS : s.ringsWf) (ringsT : t.ringsWf)
    (slot : serviceSlot s = serviceSlot t) : runCommand s = runCommand t := by
  have same (n : Nat) : run (n + 1) s = run (n + 1) t := by rw [run_succ n s hs, run_succ n t ht, slot]
  have endS := runCommand_ends s courseS ringsS
  have fuel : commandFuel s = commandFuel s - 1 + 1 := by unfold commandFuel; omega
  unfold runCommand at endS ⊢
  rw [fuel, same] at endS ⊢
  exact run_over_unique endS (runCommand_ends t courseT ringsT)

theorem exec_service_next {s t : State} (h : exec .service s = .next t) :
    t = serviceStep { s with stop := none } ∧ t.stop = none :=
  outcome_next_stop State.wellBehaved_serviceStep h

/-- The slot of a command presented with one more SERVICE step in it is the slot of the command presented after that
step. -/
theorem serviceSlot_start_succ {s t : State} {k : Nat} {rest : List Nat} (c : Ctx) (schedule : s.schedule = k :: rest)
    (served : exec .service s = .next t) :
    serviceSlot (({ s with schedule := (k + 1) :: rest } : State).start c) = serviceSlot (t.start c) := by
  obtain ⟨stepped, stop⟩ := exec_service_next served
  let u : State := { s with stop := none }
  let o : State := { s with ctx := c, schedule := rest }
  have after : ({ t.start c with schedule := rest } : State) = o.beside t := by simp [State.start, State.beside, o, stop]
  have left : t.schedule = k :: rest := by rw [stepped, (Served.serviceStep _).schedule, ← schedule]
  calc serviceSlot (({ s with schedule := (k + 1) :: rest } : State).start c)
      = serviceSteps k (serviceStep (o.beside u)) := rfl
    _ = serviceSteps k (o.beside t) := by rw [serviceStep_beside, stepped]
    _ = serviceSlot (t.start c) := by rw [serviceSlot_cons (s := t.start c) left, after]

/-- Settles O54: whether the step comes before the command or into its first slot, the first action finds the same state,
so the two runs end alike. -/
theorem serviceJustBefore : Obligations.ServiceJustBefore := by
  intro i k rest s t several inv schedule served
  have rings : t.ringsWf := (inv.exec served).rings
  have course := firstCtx_onCourse i
  have same : runCommand (({ s with schedule := (k + 1) :: rest } : State).start (firstCtx i))
      = runCommand (t.start (firstCtx i)) :=
    runCommand_eq_of_serviceSlot (start_running several _) (start_running several t) course course inv.rings rings
      (serviceSlot_start_succ (firstCtx i) schedule served)
  rw [exec_eq_execFrom several, exec_eq_execFrom several, execFrom, execFrom, outcome_runCommand, outcome_runCommand, same]

end Sys2Proof.Machine

/-! SUPPORT. Runs of the sequencer's own actions, with no SERVICE step between them; and END_TRANSMISSION where in addition
every call returns: from the start through the loop `E2`, the stop rule, the timeout query and the bus reset to the return
(R124, R128 to R133), the labels do what `sendWhole` says of the bytes and the answers. -/

namespace Sys2Proof.Machine

/-! ## Undisturbed runs -/

/-- A command whose own actions reach its return ends there. With no SERVICE step to fall in, the buffers need not be
well-formed for the fuel to be enough. -/
theorem exec_of_reaches {i : Instr} {s t : State} (several : isMacro i = true) (quiet : s.undisturbed)
    (h : Reaches (s.start (firstCtx i)) t) (idle : t.ctx.seq = .idle) (stop : t.stop = none) : exec i s = .next t := by
  obtain ⟨n, rfl⟩ := h
  have fuel : rank (s.start (firstCtx i)) ≤ commandFuel (s.start (firstCtx i)) := by
    have := rank_le (s.start (firstCtx i))
    unfold commandFuel
    omega
  have ended : (runCommand (s.start (firstCtx i))).running = false :=
    run_ends_quiet _ _ (firstCtx_onCourse i) quiet fuel
  have same : runCommand (s.start (firstCtx i)) = run n (s.start (firstCtx i)) :=
    run_over_unique ended (by simp [State.running, idle])
  rw [exec_eq_execFrom several, execFrom, outcome_runCommand, same, stop]

/-- Where every call returns and no SERVICE step falls in, a command starts in a quiet state. -/
theorem State.start_quiet {s : State} (i : Instr) (undisturbed : s.undisturbed) (calls : s.callsReturn) :
    (s.start (firstCtx i)).Quiet :=
  ⟨undisturbed, calls, rfl, firstCtx_hung i⟩

/-- An action that meets no stop, where no SERVICE step falls in. -/
theorem Reaches.silent {s t : State} (running : s.running = true) (undisturbed : s.undisturbed) (h : Machine.act s = t)
    (stop : t.stop = none) : Reaches s t := by
  refine ⟨1, ?_⟩
  have free : s.stop = none := (s.running_iff.mp running).2.2
  rw [run_succ_quiet 0 s running undisturbed, run_zero, ← h]
  simp [advance, free, h, stop]

theorem State.Quiet.act {s : State} (q : s.Quiet) (busy : s.ctx.seq ≠ .idle) : (act s).Quiet where
  schedule := (act_acted s).schedule.trans q.schedule
  calls := (act_returns q.calls).2.1
  stop := (act_returns q.calls).1.trans q.stop
  free := by
    rcases act_goesOn_or_returns busy with ⟨_, _, hung, _⟩ | ⟨v, idle, _⟩
    · exact hung.trans q.free
    · rw [idle, Ctx.idle]

/-- A quiet state stays quiet under the sequencer's own actions. -/
theorem Reaches.quiet {s t : State} (q : s.Quiet) (h : Reaches s t) : t.Quiet := by
  obtain ⟨n, rfl⟩ := h
  refine run_induction_running State.Quiet (fun u running qu => ?_) n s q
  rw [serviceSlot_nil u qu.schedule, advance_returns qu.stop qu.calls]
  exact qu.act (u.running_iff.mp running).1

/-- The sequencer has taken `n` answers and made these calls, and its context is now `c`. -/
def State.did (n : Nat) (calls : List Call) (c : Ctx) (s : State) : State :=
  { s.asked n with trace := s.trace ++ calls, ctx := c }

@[simp] theorem State.did_answer (n : Nat) (calls : List Call) (c : Ctx) (s : State) (i : Nat) :
    (s.did n calls c).answer i = s.answer (n + i) :=
  State.answer_asked n i s

@[simp] theorem State.did_did (n m : Nat) (calls more : List Call) (c e : Ctx) (s : State) :
    (s.did n calls c).did m more e = s.did (n + m) (calls ++ more) e := by
  simp [State.did, State.asked, Nat.add_assoc]

theorem State.Quiet.call_goto {s : State} (q : s.Quiet) (c : Call) (l : Label) :
    (s.call c).goto l = s.did 0 [c] { s.ctx with seq := l } :=
  congrArg (State.goto l) (q.call_eq c)

/-! ## The end of END_TRANSMISSION, from its stop rule on -/

/-- `BusReset` and the return after it (R124, R131, R144, R145). -/
theorem reaches_busReset {s : State} (q : s.Quiet) (label : s.ctx.seq = .z0) :
    Reaches s { s.did 0 (busResetCalls s.activeClockRate) Ctx.idle with
      transmissionOpen := false
      results := s.results ++ [⟨.host, timeoutResult s.ctx.op⟩] } := by
  let s1 := s.did 0 [.disable] { s.ctx with seq := .z1 }
  let s2 := s1.did 0 [.configureAsMaster s.activeClockRate] { s.ctx with seq := .z2 }
  let s3 := s2.did 0 [.enable] { s.ctx with seq := .zClose }
  have h1 : Reaches s s1 := Reaches.act q (by simp [label]) (by simp only [act, label]; exact q.call_goto _ _)
  have q1 := h1.quiet q
  have h2 : Reaches s1 s2 := Reaches.act q1 (by simp [s1, State.did]) (q1.call_goto _ _)
  have q2 := h2.quiet q1
  have h3 : Reaches s2 s3 := Reaches.act q2 (by simp [s2, State.did]) (q2.call_goto _ _)
  have h4 : Reaches s3 (actZClose s3) := Reaches.act (h3.quiet q2) (by simp [s3, State.did]) rfl
  have path := h1.trans (h2.trans (h3.trans h4))
  simp only [s3, s2, s1, State.did_did] at path
  exact path

/-- The timeout query of END_TRANSMISSION and its return (R131, R132). -/
theorem reaches_sendEnd {s : State} (q : s.Quiet) (label : s.ctx.seq = .e5) (op : s.ctx.op = some .endTransmission) :
    Reaches s { s.did 1 (.hasTimedOut (s.answer 0).flag
        :: if (s.answer 0).flag then busResetCalls s.activeClockRate else []) Ctx.idle with
      transmissionOpen := s.transmissionOpen && !(s.answer 0).flag
      results := s.results ++ [⟨.host, if (s.answer 0).flag then 4 else codeResult (seqErrorCode s.ctx.err)⟩] } := by
  let c : Ctx := { s.ctx with t := (s.answer 0).flag, seq := if (s.answer 0).flag then .z0 else .e6 }
  let s1 := s.did 1 [.hasTimedOut (s.answer 0).flag] c
  have h1 : Reaches s s1 := Reaches.act q (by simp [label]) (by simp only [act, label, actE5, q.askFlag_eq]; rfl)
  have q1 := h1.quiet q
  cases late : (s.answer 0).flag with
  | true =>
    have reset := h1.trans (reaches_busReset q1 (by simp [s1, c, late, State.did]))
    have result : timeoutResult s1.ctx.op = 4 := by simp [timeoutResult, s1, c, op, codeResult, errorCode, State.did]
    rw [result] at reset
    simpa [s1, late, State.did, State.asked] using reset
  | false =>
    have returned : Reaches s1 (actE6 s1) := Reaches.act q1 (by simp [s1, c, late, State.did]) (by
      simp [act, s1, c, late, State.did])
    simpa [actE6, State.returnHost, State.deliver, s1, c, late, State.did, State.asked] using h1.trans returned

/-- The stop rule of END_TRANSMISSION draws an ownership value: nothing was sampled, and it decides (R129, R130). -/
def State.drawsOwner (s : State) : Bool :=
  !s.ctx.sampled && s.cfg.ownerUnsampled == .draw && s.ctx.stop && s.ctx.err == .none

/-- The ownership that the stop rule of END_TRANSMISSION reads (R129). -/
def State.holdsBus (s : State) : Bool :=
  if s.ctx.sampled then !s.ctx.ownerLost else !s.drawsOwner || (s.answer 0).flag

/-- `OwnerOk()` where it decides the stop (R129): it takes an answer exactly when it draws. -/
theorem State.ownerOk_deciding {s : State} (undrawn : s.ctx.d = none) (err : s.ctx.err = .none)
    (stop : s.ctx.stop = true) :
    ∃ d, s.ownerOk = (s.holdsBus, (s.asked s.drawsOwner.toNat).withCtx { s.ctx with d := d }) := by
  cases sampled : s.ctx.sampled with
  | true =>
    have undrawing : s.drawsOwner = false := by simp [drawsOwner, sampled]
    exact ⟨s.ctx.d, by rw [ownerOk_sampled s sampled, undrawing, holdsBus, if_pos sampled]; rfl⟩
  | false =>
    cases unsampled : s.cfg.ownerUnsampled with
    | retained =>
      have undrawing : s.drawsOwner = false := by simp [drawsOwner, unsampled]
      have held : s.holdsBus = true := by simp [holdsBus, sampled, undrawing]
      exact ⟨s.ctx.d, by rw [ownerOk_retained s sampled unsampled, undrawing, held]; rfl⟩
    | draw =>
      have drawing : s.drawsOwner = true := by simp [drawsOwner, sampled, unsampled, stop, err]
      exact ⟨some s.nextDraw.flag, by
        simp [ownerOk, holdsBus, drawing, sampled, unsampled, undrawn, withCtx, asked, dropDraw, nextDraw_eq_answer]⟩

/-- The stop rule of END_TRANSMISSION (R130). -/
theorem reaches_sendStop {s : State} (q : s.Quiet) (label : s.ctx.seq = .e4) (undrawn : s.ctx.d = none) :
    ∃ d, Reaches s (s.did s.drawsOwner.toNat
      (callIf (s.ctx.err != .none || s.ctx.stop && s.holdsBus) .issueBusStop) { s.ctx with d := d, seq := .e5 }) := by
  have done {t : State} (h : actE4 s = t) : Reaches s t := Reaches.act q (by simp [label]) (by simpa [act, label])
  by_cases err : s.ctx.err = .none
  · cases stop : s.ctx.stop with
    | false =>
      have undrawing : s.drawsOwner = false := by simp [State.drawsOwner, stop]
      exact ⟨s.ctx.d, done (by simp [actE4, err, stop, undrawing, State.goto, State.did, State.asked, callIf])⟩
    | true =>
      obtain ⟨d, owner⟩ := s.ownerOk_deciding undrawn err stop
      have q1 : ((s.asked s.drawsOwner.toNat).withCtx { s.ctx with d := d }).Quiet :=
        ⟨q.schedule, q.calls, q.stop, q.free⟩
      have decided : actE4 s
          = if s.ownerOk.1 then (s.ownerOk.2.call .issueBusStop).goto .e5 else s.ownerOk.2.goto .e5 := by
        simp [actE4, err, stop]
      refine ⟨d, done ?_⟩
      rw [decided, owner, q1.call_eq]
      cases s.holdsBus <;> simp [State.goto, State.did, State.asked, State.withCtx, callIf, err]
  · have undrawing : s.drawsOwner = false := by simp [State.drawsOwner, err]
    exact ⟨s.ctx.d, done (by simp [actE4, err, q.call_eq, undrawing, State.goto, State.did, State.asked, callIf])⟩

/-- The calls of END_TRANSMISSION from the stop rule on (R130, R131). -/
def State.closingCalls (s : State) : List Call :=
  callIf (s.ctx.err != .none || s.ctx.stop && s.holdsBus) .issueBusStop
    ++ .hasTimedOut (s.answer s.drawsOwner.toNat).flag
      :: if (s.answer s.drawsOwner.toNat).flag then busResetCalls s.activeClockRate else []

/-- The result of END_TRANSMISSION from the stop rule on (R131, R132). -/
def State.closingResult (s : State) : Word :=
  if (s.answer s.drawsOwner.toNat).flag then 4 else codeResult (seqErrorCode s.ctx.err)

/-- END_TRANSMISSION from the stop rule to its return. -/
theorem reaches_sendClosing {s : State} (q : s.Quiet) (label : s.ctx.seq = .e4) (undrawn : s.ctx.d = none)
    (op : s.ctx.op = some .endTransmission) :
    Reaches s { s.did (s.drawsOwner.toNat + 1) s.closingCalls Ctx.idle with
      transmissionOpen := s.transmissionOpen && !(s.answer s.drawsOwner.toNat).flag
      results := s.results ++ [⟨.host, s.closingResult⟩] } := by
  obtain ⟨d, stopped⟩ := reaches_sendStop q label undrawn
  have path := stopped.trans (reaches_sendEnd (stopped.quiet q) rfl op)
  simp only [State.did_answer, State.did_did] at path
  exact path

/-! ## END_TRANSMISSION as a whole -/

/-- What END_TRANSMISSION does with the bytes of `tx` (R128, R135): its loop, or nothing where the start is not
acknowledged. -/
def sendBytesRun (s : State) : LoopRun :=
  if (s.answer 0).flag then sendLoop s.answer s.tx.c 1 else ⟨[], s.tx.c, 1, false, false⟩

/-- The error that END_TRANSMISSION has recorded when it comes to the stop rule (R128). -/
def sendError (s : State) : SeqError :=
  if (s.answer 0).flag then (if (sendBytesRun s).failed then .dataNack else .none) else .addressNack

/-- The locals that END_TRANSMISSION reads from its stop rule on (R129, R130). -/
def sendStopCtx (stop : Bool) (s : State) : Ctx :=
  { Ctx.idle with
    stop := stop
    err := sendError s
    ownerLost := (sendBytesRun s).ownerLost
    sampled := sampledOwnership (sendBytesRun s).calls }

/-- The code that END_TRANSMISSION returns for its error (label `E6` of R128). -/
theorem sendError_code (s : State) : codeResult (seqErrorCode (sendError s))
    = if !(s.answer 0).flag then 2 else if (sendBytesRun s).failed then 3 else 0 := by
  unfold sendError
  cases (s.answer 0).flag <;> cases (sendBytesRun s).failed <;> rfl

/-- The state in which END_TRANSMISSION comes to its stop rule with the context `c`. -/
def atSendStop (c : Ctx) (s : State) : State :=
  State.did (sendBytesRun s).used
    (.startTransaction s.targetAddress .write (s.answer 0).flag :: (sendBytesRun s).calls) c
    { s with tx := { s.tx with c := (sendBytesRun s).bytes }, transmissionOpen := false, stop := none }

@[simp] theorem atSendStop_ctx (c : Ctx) (s : State) : (atSendStop c s).ctx = c := rfl

@[simp] theorem atSendStop_activeClockRate (c : Ctx) (s : State) :
    (atSendStop c s).activeClockRate = s.activeClockRate := rfl

@[simp] theorem atSendStop_answer (c : Ctx) (s : State) (i : Nat) :
    (atSendStop c s).answer i = s.answer ((sendBytesRun s).used + i) :=
  State.did_answer _ _ c _ i

theorem atSendStop_did (n : Nat) (more : List Call) (c e : Ctx) (s : State) :
    (atSendStop c s).did n more e = State.did ((sendBytesRun s).used + n)
      (.startTransaction s.targetAddress .write (s.answer 0).flag :: (sendBytesRun s).calls ++ more) e
      { s with tx := { s.tx with c := (sendBytesRun s).bytes }, transmissionOpen := false, stop := none } :=
  State.did_did ..

/-- END_TRANSMISSION up to the stop rule: the start and the bytes (R128, R135). -/
theorem reaches_sendBytes {s : State} (stop : Bool) (undisturbed : s.undisturbed) (calls : s.callsReturn)
    (short : (s.answer 0).flag = true → s.tx.c.length < 2 ^ 32) :
    ∃ c : Ctx,
      Reaches (s.start (firstCtx (.endTransmission stop))) (atSendStop c s)
      ∧ c.seq = .e4 ∧ c.op = some .endTransmission ∧ c.stop = stop ∧ c.d = none ∧ c.err = sendError s
      ∧ c.ownerLost = (sendBytesRun s).ownerLost ∧ c.sampled = sampledOwnership (sendBytesRun s).calls := by
  let s1 : State := actE0 (s.start (firstCtx (.endTransmission stop)))
  have q := State.start_quiet (.endTransmission stop) undisturbed calls
  have h1 : Reaches (s.start (firstCtx (.endTransmission stop))) s1 := Reaches.act q (firstCtx_seq rfl) rfl
  have q1 : s1.Quiet := h1.quiet q
  have first : s1.answer 0 = s.answer 0 := rfl
  have asked : Reaches s1 (actE1 s1) := Reaches.act q1 (by simp [s1, actE0]) rfl
  cases started : (s.answer 0).flag with
  | false =>
    let c : Ctx := { s1.ctx with ok := false, err := .addressNack, seq := .e4 }
    have h2 : Reaches s1 (s1.did 1 [.startTransaction s.targetAddress .write false] c) := by
      simp only [actE1, q1.askFlag_eq, first, started] at asked
      exact asked
    have none : sendBytesRun s = ⟨[], s.tx.c, 1, false, false⟩ := by simp [sendBytesRun, started]
    simp only [atSendStop, none, started]
    exact ⟨c, h1.trans h2, rfl, rfl, rfl, rfl, by simp [sendError, started, c], rfl, rfl⟩
  | true =>
    let s2 := s1.did 1 [.startTransaction s.targetAddress .write true] { s1.ctx with ok := true, seq := .e2 }
    have h2 : Reaches s1 s2 := by
      simp only [actE1, q1.askFlag_eq, first, started] at asked
      exact asked
    have all : sendBytesRun s = sendLoop s.answer s.tx.c 1 := by simp [sendBytesRun, started]
    obtain ⟨le, c, looped, label, op, stops, undrawn, err, lost, sampled⟩ := reaches_sendLoop s.answer s.tx.c 1 s2
      (h2.quiet q1) (fun j => State.answer_asked 1 j s) rfl rfl (short started) rfl rfl
    rw [← all] at looped le err lost sampled
    refine ⟨c, ?_, label, op, stops, undrawn, ?_, lost, ?_⟩
    · have whole : atSendStop c s = State.did ((sendBytesRun s).used - 1) (sendBytesRun s).calls c
          { s2 with tx := { s2.tx with c := (sendBytesRun s).bytes } } := by
        change atSendStop c s = State.did _ _ c (State.did 1 [_] s2.ctx
          { s with tx := { s.tx with c := (sendBytesRun s).bytes }, transmissionOpen := false, stop := none })
        rw [State.did_did, Nat.add_sub_cancel' le, atSendStop, started]
        rfl
      rw [whole]
      exact h1.trans (h2.trans looped)
    · simpa [sendError, started] using err
    · rw [sampled]; rfl

/-- `sendWhole` in the terms of the state in which END_TRANSMISSION comes to its stop rule. -/
theorem sendWhole_eq {stop : Bool} {c : Ctx} {s : State} (stops : c.stop = stop) (err : c.err = sendError s)
    (lost : c.ownerLost = (sendBytesRun s).ownerLost) (sampled : c.sampled = sampledOwnership (sendBytesRun s).calls) :
    sendWhole stop s =
      { calls := .startTransaction s.targetAddress .write (s.answer 0).flag :: (sendBytesRun s).calls
          ++ (atSendStop c s).closingCalls
        result := (atSendStop c s).closingResult
        used := (sendBytesRun s).used + ((atSendStop c s).drawsOwner.toNat + 1)
        bytes := (sendBytesRun s).bytes
        closes := true } := by
  have loop : (if (s.answer 0).flag then sendLoop s.answer s.tx.c 1 else ⟨[], s.tx.c, 1, false, false⟩)
    = sendBytesRun s := rfl
  have error : (sendError s != .none) = (!(s.answer 0).flag || (sendBytesRun s).failed) := by
    unfold sendError
    cases (s.answer 0).flag <;> cases (sendBytesRun s).failed <;> rfl
  have draws : (atSendStop c s).drawsOwner = (!sampledOwnership (sendBytesRun s).calls && s.cfg.ownerUnsampled == .draw
      && stop && !(!(s.answer 0).flag || (sendBytesRun s).failed)) := by
    rw [← error, ← sampled, ← stops, ← err, bne, Bool.not_not]
    rfl
  have owner : (atSendStop c s).holdsBus = if sampledOwnership (sendBytesRun s).calls then !(sendBytesRun s).ownerLost
      else !(atSendStop c s).drawsOwner || (s.answer (sendBytesRun s).used).flag := by
    rw [← sampled, ← lost, State.holdsBus, atSendStop_answer]
    rfl
  simp only [sendWhole, loop, State.closingCalls, State.closingResult, atSendStop_answer, atSendStop_ctx,
    atSendStop_activeClockRate, stops, err, error, sendError_code, owner, draws, List.append_assoc, List.nil_append,
    List.cons_append, Nat.add_assoc]

/-- END_TRANSMISSION undisturbed does what `sendWhole` says (R128 to R133, R135). The length of `tx` counts only where the
start is acknowledged, for `Available(tx)` (R104). -/
theorem exec_endTransmission {s : State} (stop : Bool) (undisturbed : s.undisturbed) (calls : s.callsReturn)
    (short : (s.answer 0).flag = true → s.tx.c.length < 2 ^ 32) :
    exec (.endTransmission stop) s
      = .next { (s.asked (sendWhole stop s).used).ended (sendWhole stop s).calls (sendWhole stop s).result with
          tx := { s.tx with c := (sendWhole stop s).bytes }
          transmissionOpen := false } := by
  obtain ⟨c, sent, label, op, stops, undrawn, err, lost, sampled⟩ := reaches_sendBytes stop undisturbed calls short
  have q := State.start_quiet (.endTransmission stop) undisturbed calls
  have path := sent.trans (reaches_sendClosing (sent.quiet q) label undrawn op)
  rw [exec_of_reaches rfl undisturbed path rfl rfl, sendWhole_eq stops err lost sampled]
  simp only [atSendStop_did]
  rfl

end Sys2Proof.Machine

/-! THEOREMS. What the calls of END_TRANSMISSION show of the bytes (R52, R128, R131, R133, R135). -/

namespace Sys2Proof.Machine

@[simp] theorem sentBytes_append (a b : List Call) : sentBytes (a ++ b) = sentBytes a ++ sentBytes b :=
  List.filterMap_append

@[simp] theorem acknowledgedBytes_append (a b : List Call) :
    acknowledgedBytes (a ++ b) = acknowledgedBytes a ++ acknowledgedBytes b :=
  List.filterMap_append

@[simp] theorem hasDataNack_append (a b : List Call) : hasDataNack (a ++ b) = (hasDataNack a || hasDataNack b) :=
  List.any_append

@[simp] theorem hasAddressNack_append (a b : List Call) :
    hasAddressNack (a ++ b) = (hasAddressNack a || hasAddressNack b) :=
  List.any_append

@[simp] theorem lostOwnership_append (a b : List Call) :
    lostOwnership (a ++ b) = (lostOwnership a || lostOwnership b) :=
  List.any_append

@[simp] theorem sawTimeout_append (a b : List Call) : sawTimeout (a ++ b) = (sawTimeout a || sawTimeout b) :=
  List.any_append

/-- The calls show that these bytes were handed to the bus in order, all but `unsent`: every one was acknowledged but a
last one after which `DataNack` is shown; `left` are the bytes kept; and bytes stay unsent only for a reason that the calls
show. -/
structure SentInOrder (bytes left unsent : List Byte) (calls : List Call) : Prop where
  split : bytes = sentBytes calls ++ unsent
  acknowledged : acknowledgedBytes calls = if hasDataNack calls then (sentBytes calls).dropLast else sentBytes calls
  kept : left = if hasDataNack calls then [] else unsent
  reason : unsent ≠ [] → hasDataNack calls = true ∨ hasAddressNack calls = true ∨ lostOwnership calls = true

theorem sentBytes_ne_nil_of_dataNack {calls : List Call} (h : hasDataNack calls = true) : sentBytes calls ≠ [] := by
  obtain ⟨c, mem, nack⟩ := List.any_eq_true.mp h
  cases c with
  | sendByte v answer => exact List.ne_nil_of_mem (List.mem_filterMap.mpr ⟨_, mem, rfl⟩)
  | _ => cases nack

/-- One more byte sent and acknowledged in front. -/
theorem SentInOrder.cons {bytes left unsent : List Byte} {calls : List Call} (h : SentInOrder bytes left unsent calls)
    (b : Byte) : SentInOrder (b :: bytes) left unsent (.hasBusOwnership true :: .sendByte b true :: calls) where
  split := congrArg (b :: ·) h.split
  acknowledged := by
    change b :: acknowledgedBytes calls = if hasDataNack calls then (b :: sentBytes calls).dropLast else b :: sentBytes calls
    rw [h.acknowledged]
    split
    · rename_i nack
      rw [List.dropLast_cons_of_ne_nil (sentBytes_ne_nil_of_dataNack nack)]
    · rfl
  kept := h.kept
  reason := h.reason

/-- Calls that show no byte and no reason, behind the others. -/
theorem SentInOrder.append {bytes left unsent : List Byte} {calls more : List Call}
    (h : SentInOrder bytes left unsent calls) (sent : sentBytes more = []) (acknowledged : acknowledgedBytes more = [])
    (dataNack : hasDataNack more = false) : SentInOrder bytes left unsent (calls ++ more) where
  split := by simpa [sent] using h.split
  acknowledged := by simpa [sent, acknowledged, dataNack] using h.acknowledged
  kept := by simpa [dataNack] using h.kept
  reason some := by
    rcases h.reason some with shown | shown | shown <;> simp [shown]

/-- The loop `E2` sends the bytes in order (R128, R133). -/
theorem sendLoop_sentInOrder (a : Nat → Draw) (l : List Byte) (i : Nat) :
    ∃ unsent, SentInOrder l (sendLoop a l i).bytes unsent (sendLoop a l i).calls := by
  induction l generalizing i with
  | nil => exact ⟨[], rfl, rfl, rfl, fun some => absurd rfl some⟩
  | cons b rest ih =>
    unfold sendLoop
    split
    · split
      · obtain ⟨unsent, sent⟩ := ih (i + 2)
        exact ⟨unsent, sent.cons b⟩
      · exact ⟨rest, rfl, rfl, rfl, fun _ => .inl rfl⟩
    · exact ⟨b :: rest, rfl, rfl, rfl, fun _ => .inr (.inr rfl)⟩

/-- What the calls of the loop `E2` show beside the bytes. -/
theorem sendLoop_shows (a : Nat → Draw) (l : List Byte) (i : Nat) :
    hasDataNack (sendLoop a l i).calls = (sendLoop a l i).failed ∧ hasAddressNack (sendLoop a l i).calls = false
      ∧ sawTimeout (sendLoop a l i).calls = false := by
  induction l generalizing i with
  | nil => exact ⟨rfl, rfl, rfl⟩
  | cons b rest ih =>
    unfold sendLoop
    split
    · split
      · exact ih (i + 2)
      · exact ⟨rfl, rfl, rfl⟩
    · exact ⟨rfl, rfl, rfl⟩

/-- What the calls of END_TRANSMISSION up to the stop rule show (R128, R135). -/
theorem sendBytesRun_shows (s : State) (start : Call)
    (h : start = .startTransaction s.targetAddress .write (s.answer 0).flag) :
    (∃ unsent, SentInOrder s.tx.c (sendBytesRun s).bytes unsent (start :: (sendBytesRun s).calls))
      ∧ hasDataNack (start :: (sendBytesRun s).calls) = (sendBytesRun s).failed
      ∧ hasAddressNack (start :: (sendBytesRun s).calls) = !(s.answer 0).flag
      ∧ sawTimeout (start :: (sendBytesRun s).calls) = false := by
  subst h
  cases started : (s.answer 0).flag with
  | false =>
    have none : sendBytesRun s = ⟨[], s.tx.c, 1, false, false⟩ := by simp [sendBytesRun, started]
    rw [none]
    exact ⟨⟨s.tx.c, rfl, rfl, rfl, fun _ => .inr (.inl rfl)⟩, rfl, rfl, rfl⟩
  | true =>
    have all : sendBytesRun s = sendLoop s.answer s.tx.c 1 := by simp [sendBytesRun, started]
    rw [all]
    obtain ⟨unsent, split, acknowledged, kept, reason⟩ := sendLoop_sentInOrder s.answer s.tx.c 1
    exact ⟨⟨unsent, split, acknowledged, kept, reason⟩, sendLoop_shows s.answer s.tx.c 1⟩

/-- What the calls of END_TRANSMISSION from the stop rule on show (R130, R131). -/
theorem closingCalls_shows (s : State) :
    sentBytes s.closingCalls = [] ∧ acknowledgedBytes s.closingCalls = [] ∧ hasDataNack s.closingCalls = false
      ∧ hasAddressNack s.closingCalls = false ∧ sawTimeout s.closingCalls = (s.answer s.drawsOwner.toNat).flag := by
  unfold State.closingCalls callIf
  cases (s.answer s.drawsOwner.toNat).flag <;> split <;> exact ⟨rfl, rfl, rfl, rfl, rfl⟩

/-- END_TRANSMISSION as a whole sends the bytes of `tx` in order (R52). -/
theorem sendWhole_sentInOrder (stop : Bool) (s : State) :
    ∃ unsent, SentInOrder s.tx.c (sendWhole stop s).bytes unsent (sendWhole stop s).calls := by
  rw [sendWhole_eq (stop := stop) (c := sendStopCtx stop s) rfl rfl rfl rfl]
  obtain ⟨⟨unsent, sent⟩, _⟩ := sendBytesRun_shows s _ rfl
  obtain ⟨none, nor, dataNack, _⟩ := closingCalls_shows (atSendStop (sendStopCtx stop s) s)
  exact ⟨unsent, sent.append none nor dataNack⟩

/-- The result of END_TRANSMISSION in the terms of its calls (R131, R132). -/
theorem sendWhole_result (stop : Bool) (s : State) :
    (sendWhole stop s).result = if sawTimeout (sendWhole stop s).calls then 4
      else if hasAddressNack (sendWhole stop s).calls then 2 else if hasDataNack (sendWhole stop s).calls then 3
      else 0 := by
  rw [sendWhole_eq (stop := stop) (c := sendStopCtx stop s) rfl rfl rfl rfl]
  have err : (sendStopCtx stop s).err = sendError s := rfl
  obtain ⟨_, dataNack, addressNack, early⟩ := sendBytesRun_shows s _ rfl
  obtain ⟨_, _, noDataNack, noAddressNack, timeout⟩ := closingCalls_shows (atSendStop (sendStopCtx stop s) s)
  simp only [sawTimeout_append, hasAddressNack_append, hasDataNack_append, early, addressNack, dataNack, timeout,
    noDataNack, noAddressNack, Bool.false_or, Bool.or_false, State.closingResult, atSendStop_ctx, err, sendError_code]

/-- Settles O30: the calls of `sendWhole` show the bytes in order. -/
theorem sentBytesInOrder : Obligations.SentBytesInOrder := by
  intro stop s undisturbed calls cap held
  obtain ⟨unsent, split, acknowledged, kept, reason⟩ := sendWhole_sentInOrder stop s
  have short : s.tx.c.length < 2 ^ 32 := lt_of_le_of_lt (held.trans cap.2) (by decide)
  exact ⟨_, _, unsent, exec_endTransmission stop undisturbed calls fun _ => short, rfl, split, acknowledged, kept, reason⟩

end Sys2Proof.Machine

/-! THEOREMS. The round trip of a write transaction (R125, R127, R128): BEGIN_TRANSMISSION and WRITE_BYTES undisturbed, and
what END_TRANSMISSION then sends. -/

namespace Sys2Proof.Machine

/-- BEGIN_TRANSMISSION undisturbed (R125). -/
theorem exec_beginTransmission {s : State} (address : Byte) (undisturbed : s.undisturbed) :
    exec (.beginTransmission address) s = .next { s.ended [] 0 with
      targetAddress := address
      tx := s.tx.clear
      transmissionOpen := true } := by
  let s0 := s.start (firstCtx (.beginTransmission address))
  have h0 : Reaches s0 (actB0 s0) := Reaches.silent rfl undisturbed rfl rfl
  have h1 : Reaches (actB0 s0) (actB1 (actB0 s0)) := Reaches.silent rfl undisturbed rfl rfl
  have h2 : Reaches (actB1 (actB0 s0)) (actB2 (actB1 (actB0 s0))) := Reaches.silent rfl undisturbed rfl rfl
  rw [exec_of_reaches rfl undisturbed (h0.trans (h1.trans h2)) rfl rfl, State.ended, List.append_nil]
  rfl

/-- A byte that a full buffer does not accept changes nothing (R101). -/
theorem State.storeByte_rejected {sel : BufSel} {v : Byte} {s : State} (h : (s.storeByte sel v).1 = false) :
    (s.storeByte sel v).2 = s := by
  have full : (s.buf sel).c.length = s.cfg.nCap := by simpa using h
  rw [storeByte, Ring.store_full _ _ _ full]
  cases sel <;> rfl

/-- The loop `X1` to `X3` of R127 with no SERVICE step in it stores the rest of the payload as `writeBytesNow` does. -/
theorem reaches_writeLoop (l : List Byte) (s : State) (undisturbed : s.undisturbed) (running : s.running = true)
    (label : s.ctx.seq = .x1) (payload : s.ctx.payload.drop s.ctx.k.toNat = l)
    (count : s.ctx.k.toNat + l.length = s.ctx.count.toNat) :
    Reaches s ((writeBytesNow l s.ctx.k s).1.returnHost (writeBytesNow l s.ctx.k s).2) := by
  induction l generalizing s with
  | nil =>
    have all : s.ctx.k = s.ctx.count := BitVec.eq_of_toNat_eq count
    have done : act s = s.returnHost s.ctx.k := by simp [act, label, actX1, all]
    exact Reaches.silent running undisturbed done (s.running_iff.mp running).2.2
  | cons v rest ih =>
    obtain ⟨_, free, stop⟩ := s.running_iff.mp running
    rw [List.length_cons] at count
    have more : s.ctx.k ≠ s.ctx.count := by
      intro all
      rw [all] at count
      omega
    have next : (s.ctx.k + 1).toNat = s.ctx.k.toNat + 1 := by
      have := s.ctx.count.isLt
      rw [BitVec.toNat_add]
      exact Nat.mod_eq_of_lt (by simp; omega)
    have byte : payloadByte s.ctx = v := by
      simp [payloadByte, List.getD, ← List.head?_drop, payload]
    have counted : Reaches s (s.goto .x2) :=
      Reaches.silent running undisturbed (by simp [act, label, actX1, more]) stop
    have at2 : (s.goto .x2).running = true := (State.running_iff _).mpr ⟨by simp, free, stop⟩
    have tested : act (s.goto .x2) = if s.transmissionOpen then s.goto .x3 else s.returnHost s.ctx.k := rfl
    unfold writeBytesNow
    cases opened : s.transmissionOpen with
    | false =>
      rw [opened] at tested
      exact counted.trans (Reaches.silent at2 undisturbed tested stop)
    | true =>
      rw [opened] at tested
      have at3 : (s.goto .x3).running = true := (State.running_iff _).mpr ⟨by simp, free, stop⟩
      refine counted.trans ((Reaches.silent at2 undisturbed tested stop).trans ?_)
      let c : Ctx := { s.ctx with k := s.ctx.k + 1, seq := .x1 }
      have stored : act (s.goto .x3) = if (s.storeByte .tx v).1 then (s.storeByte .tx v).2.withCtx c
          else (s.storeByte .tx v).2.returnHost s.ctx.k := by
        rw [← byte]
        rfl
      cases room : (s.storeByte .tx v).1 with
      | false =>
        rw [room, State.storeByte_rejected room] at stored
        exact Reaches.silent at3 undisturbed stored stop
      | true =>
        rw [room] at stored
        have at1 : ((s.storeByte .tx v).2.withCtx c).running = true :=
          (State.running_iff _).mpr ⟨by simp [State.withCtx, c], free, stop⟩
        have left : c.payload.drop c.k.toNat = rest := by
          change s.ctx.payload.drop (s.ctx.k + 1).toNat = rest
          rw [next, ← List.tail_drop, payload, List.tail_cons]
        have later := ih ((s.storeByte .tx v).2.withCtx c) undisturbed at1 rfl left (by
          change (s.ctx.k + 1).toNat + rest.length = s.ctx.count.toNat
          omega)
        rw [writeBytesNow_withCtx] at later
        exact (Reaches.silent at3 undisturbed stored stop).trans later

/-- WRITE_BYTES undisturbed stores as `writeBytesNow` does (R127). -/
theorem exec_writeBytes {s : State} {count : Word} {payload : List Byte} (undisturbed : s.undisturbed)
    (length : payload.length = count.toNat) :
    exec (.writeBytes count payload) s
      = .next ((writeBytesNow payload 0 { s with stop := none }).1.returnHost
          (writeBytesNow payload 0 { s with stop := none }).2) := by
  let s0 := s.start (firstCtx (.writeBytes count payload))
  have first : Reaches s0 (actX0 s0) := Reaches.silent rfl undisturbed rfl rfl
  have loop := reaches_writeLoop payload (actX0 s0) undisturbed rfl rfl (List.drop_zero ..)
    ((Nat.zero_add _).trans length)
  have same : actX0 s0 = State.withCtx (actX0 s0).ctx { s with stop := none } := rfl
  have stop := (appMeaning_frame (i := .writeBytes count payload) rfl { s with stop := none }).1
  rw [same, writeBytesNow_withCtx] at loop
  exact exec_of_reaches rfl undisturbed (first.trans loop) rfl stop

/-- Bytes that fit into an open `tx` are all stored, in order behind those held (R101, R127). -/
theorem writeBytesNow_fits (l : List Byte) (k : Word) (s : State) (opened : s.transmissionOpen = true)
    (fits : s.tx.c.length + l.length ≤ s.cfg.nCap) :
    ∃ r : Ring, r.c = s.tx.c ++ l ∧ writeBytesNow l k s = ({ s with tx := r }, k + BitVec.ofNat 32 l.length) := by
  induction l generalizing k s with
  | nil => exact ⟨s.tx, by simp, by simp [writeBytesNow]⟩
  | cons v rest ih =>
    rw [List.length_cons] at fits
    have room : s.tx.c.length ≠ s.cfg.nCap := by omega
    have accepted : (s.storeByte .tx v).1 = true := by simp [room]
    have held : (s.storeByte .tx v).2.tx.c = s.tx.c ++ [v] := by simp [room]
    obtain ⟨r, bytes, stored⟩ := ih (k + 1) (s.storeByte .tx v).2 opened (by
      rw [held, List.length_append, List.length_singleton, Nat.add_assoc, Nat.add_comm 1]
      exact fits)
    refine ⟨r, by rw [bytes, held, List.append_assoc, List.singleton_append], ?_⟩
    have total : k + 1 + BitVec.ofNat 32 rest.length = k + BitVec.ofNat 32 (v :: rest).length := by
      rw [BitVec.add_assoc, List.length_cons, Nat.add_comm, BitVec.ofNat_add]
      rfl
    rw [writeBytesNow, if_pos opened, if_pos accepted, stored, total]
    rfl

/-- WRITE_BYTES of bytes that fit into an open `tx` stores all of them and returns their count (R127). -/
theorem exec_writeBytes_fits {s : State} {count : Word} {payload : List Byte} (undisturbed : s.undisturbed)
    (length : payload.length = count.toNat) (opened : s.transmissionOpen = true)
    (fits : s.tx.c.length + payload.length ≤ s.cfg.nCap) :
    ∃ r : Ring, r.c = s.tx.c ++ payload
      ∧ exec (.writeBytes count payload) s = .next { s.ended [] count with tx := r } := by
  obtain ⟨r, bytes, stored⟩ := writeBytesNow_fits payload 0 { s with stop := none } opened fits
  have all : 0 + BitVec.ofNat 32 payload.length = count := by simp [length]
  rw [all] at stored
  exact ⟨r, bytes, by rw [exec_writeBytes undisturbed length, stored, State.ended, List.append_nil]; rfl⟩

/-- What law L5 says of the calls (R223). -/
theorem Responsive.shows {calls : List Call} (h : Responsive calls) :
    hasDataNack calls = false ∧ hasAddressNack calls = false ∧ lostOwnership calls = false ∧ sawTimeout calls = false := by
  have never {p : Call → Bool} (unlawful : ∀ c ∈ calls, p c = true → False) : calls.any p = false :=
    List.any_eq_false.mpr unlawful
  refine ⟨never ?_, never ?_, never ?_, never ?_⟩
  · exact fun | .sendByte _ false, mem, _ => Bool.noConfusion (h _ mem)
  · exact fun | .startTransaction _ _ false, mem, _ => Bool.noConfusion (h _ mem)
  · exact fun | .hasBusOwnership false, mem, _ => Bool.noConfusion (h _ mem)
  · exact fun | .hasTimedOut true, mem, _ => Bool.noConfusion (h _ mem)

/-- To a responsive peer all bytes of `tx` are sent and acknowledged, and the result is `Success` (R128, R223). -/
theorem sendWhole_responsive {stop : Bool} {s : State} (h : Responsive (sendWhole stop s).calls) :
    (sendWhole stop s).calls.head? = some (.startTransaction s.targetAddress .write true)
      ∧ acknowledgedBytes (sendWhole stop s).calls = s.tx.c ∧ (sendWhole stop s).bytes = []
      ∧ (sendWhole stop s).result = 0 := by
  obtain ⟨dataNack, addressNack, held, timeout⟩ := h.shows
  obtain ⟨unsent, split, acknowledged, kept, reason⟩ := sendWhole_sentInOrder stop s
  have none : unsent = [] := by
    by_contra some
    simpa [dataNack, addressNack, held] using reason some
  have start : (s.answer 0).flag = true :=
    h (.startTransaction s.targetAddress .write (s.answer 0).flag) (by simp [sendWhole])
  refine ⟨by simp [sendWhole, start], ?_, by simpa [dataNack, none] using kept, ?_⟩
  · rw [acknowledged, split, none, dataNack, List.append_nil]
    rfl
  · rw [sendWhole_result, dataNack, addressNack, timeout]
    rfl

/-- Settles O33: each command does what it does undisturbed, and a responsive peer takes all that `tx` then holds. -/
theorem roundTripResponsive : Obligations.RoundTripResponsive := by
  intro address count data stop s undisturbed calls cap length fits
  let s1 : State := { s.ended [] 0 with targetAddress := address, tx := s.tx.clear, transmissionOpen := true }
  have begun : exec (.beginTransmission address) s = .next s1 := exec_beginTransmission address undisturbed
  obtain ⟨r, held, written⟩ := exec_writeBytes_fits (s := s1) undisturbed length rfl
    ((Nat.zero_add _).trans_le fits)
  let s2 : State := { s1.ended [] count with tx := r }
  have loaded : s2.tx.c = data := held
  have short : s2.tx.c.length < 2 ^ 32 := by
    rw [loaded]
    exact lt_of_le_of_lt (fits.trans cap.2) (by decide)
  have sent := exec_endTransmission (s := s2) stop undisturbed calls fun _ => short
  have run := (execAll_cons_next begun [.writeBytes count data, .endTransmission stop]).trans
    ((execAll_cons_next written [.endTransmission stop]).trans (execAll_cons_next sent []))
  refine ⟨_, (sendWhole stop s2).calls, run, ?_, fun responsive => ?_⟩
  · change s.trace ++ [] ++ [] ++ (sendWhole stop s2).calls = _
    rw [List.append_nil, List.append_nil]
  · obtain ⟨head, acknowledged, empty, result⟩ := sendWhole_responsive responsive
    refine ⟨head, acknowledged.trans loaded, empty, ?_⟩
    change s.results ++ [⟨.host, 0⟩] ++ [⟨.host, count⟩] ++ [⟨.host, (sendWhole stop s2).result⟩] = _
    rw [result, List.append_assoc, List.append_assoc]
    rfl

end Sys2Proof.Machine

/-! SUPPORT. The command word (R71 to R79): what it is for a word to select a row, field by field, and that the encoder and
the decoder undo each other on words, on payloads and on serialized commands. -/

namespace Sys2Proof.Laws

/-! ## Which fields a row uses -/

/-- The rows that use the field `F` (R74). -/
def rowsWithF : List Opcode := [.beginSlave, .endTransmission, .requestFrom, .onReceive, .onRequest]

/-- The rows that use the field `S` (R74). -/
def rowsWithS : List Opcode := [.bufStore, .bufRead, .bufPeek, .bufAvailable, .bufIsFull, .bufClear]

/-- The rows that use the field `A` (R74). -/
def rowsWithA : List Opcode := [.beginSlave, .beginTransmission, .writeByte, .requestFrom, .bufStore]

/-- The rows that use the field `W` (R74). -/
def rowsWithW : List Opcode := [.setClock, .writeBytes, .requestFrom, .onReceive, .onRequest]

/-- A row's mask frees the fields that the row uses and checks every other one whole (R79). -/
theorem layoutMask_eq (o : Opcode) : Opcode.layoutMask o =
    (if o ∈ rowsWithW then 0 else BitVec.allOnes 32, if o ∈ rowsWithA then 0 else BitVec.allOnes 8,
      if o ∈ rowsWithS then 0 else BitVec.allOnes 1, if o ∈ rowsWithF then 0 else BitVec.allOnes 1) := by
  cases o <;> rfl

/-- A field under a mask that frees it or checks it whole. -/
theorem and_mask_eq_zero_iff {n : Nat} (x : BitVec n) (P : Prop) [Decidable P] :
    x &&& (if P then 0 else BitVec.allOnes n) = 0 ↔ (¬P → x = 0) := by
  split <;> simp [*]

theorem ofBool_fField (w : CommandWord) : BitVec.ofBool (fField w) = w.extractLsb' 8 1 := by
  apply BitVec.eq_of_getLsbD_eq
  intro i hi
  obtain rfl : i = 0 := by omega
  simp [fField]

theorem ofBool_sField (w : CommandWord) : BitVec.ofBool (sField w).bit = w.extractLsb' 9 1 := by
  have bit : (sField w).bit = w.getLsbD 9 := by
    unfold sField
    cases w.getLsbD 9 <;> rfl
  apply BitVec.eq_of_getLsbD_eq
  intro i hi
  obtain rfl : i = 0 := by omega
  simp [bit]

theorem fField_eq_false_iff (w : CommandWord) : fField w = false ↔ w.extractLsb' 8 1 = 0 := by
  rw [← ofBool_fField]
  cases fField w <;> decide

theorem sField_eq_tx_iff (w : CommandWord) : sField w = .tx ↔ w.extractLsb' 9 1 = 0 := by
  rw [← ofBool_sField]
  cases sField w <;> decide

/-! ## The row a word selects -/

/-- What R79 says of a word that selects the row `o`: `OP` is the row's, and the reserved bits and every field that the row
does not use are 0. -/
structure Selects (w : CommandWord) (o : Opcode) : Prop where
  op : opField w = o.op
  r15 : w.extractLsb' 10 6 = 0
  r31 : w.extractLsb' 24 8 = 0
  f : o ∉ rowsWithF → fField w = false
  s : o ∉ rowsWithS → sField w = .tx
  a : o ∉ rowsWithA → aField w = 0
  w : o ∉ rowsWithW → wField w = 0

/-- The mask test, field by field. -/
theorem mask_iff_selects (w : CommandWord) (o : Opcode) : w &&& o.mask = o.pattern ↔ Selects w o := by
  have fields : w &&& o.mask = o.pattern ↔
      wField w &&& (Opcode.layoutMask o).1 = 0 ∧ w.extractLsb' 24 8 &&& 0xFF = 0
        ∧ aField w &&& (Opcode.layoutMask o).2.1 = 0 ∧ w.extractLsb' 10 6 &&& 0x3F = 0
        ∧ w.extractLsb' 9 1 &&& (Opcode.layoutMask o).2.2.1 = 0 ∧ w.extractLsb' 8 1 &&& (Opcode.layoutMask o).2.2.2 = 0
        ∧ opField w &&& 0xFF = o.op := by
    conv_lhs => rw [← layout_fields w, mask_layout, pattern_layout, layout_and, layout_inj]
    rfl
  have ones8 : (0xFF : BitVec 8) = BitVec.allOnes 8 := rfl
  have ones6 : (0x3F : BitVec 6) = BitVec.allOnes 6 := rfl
  rw [fields, layoutMask_eq, ones8, ones6]
  simp only [and_mask_eq_zero_iff, ← fField_eq_false_iff, ← sField_eq_tx_iff, BitVec.and_allOnes]
  constructor
  · rintro ⟨w, r31, a, r15, s, f, op⟩
    exact ⟨op, r15, r31, f, s, a, w⟩
  · rintro ⟨op, r15, r31, f, s, a, w⟩
    exact ⟨w, r31, a, r15, s, f, op⟩

/-- The decoder picks a row exactly when the word agrees with its mask and match (R79). -/
theorem decodeOpcode_eq_ok_iff (w : CommandWord) (o : Opcode) : decodeOpcode w = .ok o ↔ w &&& o.mask = o.pattern := by
  constructor
  · intro h
    unfold decodeOpcode at h
    split at h
    · cases h
    · split at h
      · cases h
        assumption
      · cases h
  · intro h
    simp [decodeOpcode, ((mask_iff_selects w o).mp h).op, ofByte_op, h]

theorem ofByte_eq_none_iff (b : Byte) : Opcode.ofByte b = none ↔ b ∉ Opcode.all.map Opcode.op := by
  simp [Opcode.ofByte]

/-- A word that matches no row is rejected by the name of what is wrong with it (R85). -/
theorem decodeOpcode_reserved {w : CommandWord} (h : ∀ o : Opcode, w &&& o.mask ≠ o.pattern) :
    decodeOpcode w = .error (if opField w ∈ Opcode.all.map Opcode.op then .unusedBits else .unknownOpcode) := by
  unfold decodeOpcode
  split
  · rename_i none
    rw [if_neg ((ofByte_eq_none_iff _).mp none)]
  · rename_i o some
    have known : opField w ∈ Opcode.all.map Opcode.op := by
      by_contra unknown
      simp [(ofByte_eq_none_iff _).mpr unknown] at some
    rw [if_neg (h o), if_pos known]

/-! ## Decoding a word -/

/-- The decoder answers a command exactly for a row's word with a payload of the length the word calls for. -/
theorem decodeWord_eq_ok_iff (w : CommandWord) (payload : List Byte) (i : Instr) : decodeWord w payload = .ok i ↔
    ∃ o, decodeOpcode w = .ok o ∧ payload.length = o.payloadLength w ∧ i = buildInstr o w payload := by
  unfold decodeWord
  cases decodeOpcode w with
  | error e => simp
  | ok o =>
    by_cases length : payload.length = o.payloadLength w <;> simp [length, eq_comm]

@[simp] theorem opcode_buildInstr (o : Opcode) (w : CommandWord) (payload : List Byte) :
    (buildInstr o w payload).opcode = o := by
  cases o <;> rfl

theorem payload_buildInstr {o : Opcode} {w : CommandWord} {payload : List Byte}
    (length : payload.length = o.payloadLength w) : (buildInstr o w payload).payload = payload := by
  cases o with
  | writeBytes => rfl
  | _ => exact (List.eq_nil_of_length_eq_zero length).symm

theorem wellFormed_buildInstr {o : Opcode} {w : CommandWord} {payload : List Byte}
    (length : payload.length = o.payloadLength w) : (buildInstr o w payload).wellFormed = true := by
  cases o with
  | writeBytes => exact beq_iff_eq.mpr length
  | _ => rfl

/-- The encoder lays out the fields that the row uses, and 0 in the others. -/
theorem encodeWord_buildInstr_fields (o : Opcode) (w : CommandWord) (payload : List Byte) :
    encodeWord (buildInstr o w payload) =
      packFields o.op (if o ∈ rowsWithF then fField w else false) (if o ∈ rowsWithS then sField w else .tx)
        (if o ∈ rowsWithA then aField w else 0) (if o ∈ rowsWithW then wField w else 0) := by
  cases o <;> rfl

/-- A word whose reserved bits are 0 is packed from its fields. -/
theorem packFields_fields {w : CommandWord} (r15 : w.extractLsb' 10 6 = 0) (r31 : w.extractLsb' 24 8 = 0) :
    packFields (opField w) (fField w) (sField w) (aField w) (wField w) = w := by
  conv_rhs => rw [← layout_fields w, r15, r31, ← ofBool_fField, ← ofBool_sField]
  rfl

/-- Encoding gives back the word of the row: the fields the encoder leaves out are 0 in the word. -/
theorem encodeWord_buildInstr {o : Opcode} {w : CommandWord} (selects : Selects w o) (payload : List Byte) :
    encodeWord (buildInstr o w payload) = w := by
  rw [encodeWord_buildInstr_fields, ite_eq_left_iff.mpr fun h => (selects.f h).symm,
    ite_eq_left_iff.mpr fun h => (selects.s h).symm, ite_eq_left_iff.mpr fun h => (selects.a h).symm,
    ite_eq_left_iff.mpr fun h => (selects.w h).symm, ← selects.op, packFields_fields selects.r15 selects.r31]

/-! ## Decoding what is encoded -/

theorem decodeOpcode_encodeWord : ∀ i : Instr, decodeOpcode (encodeWord i) = .ok i.opcode
  | .beginMaster => EncodeSelects.beginMaster
  | .beginSlave address gc => EncodeSelects.beginSlave address gc
  | .setClock rate => EncodeSelects.setClock rate
  | .endBus => EncodeSelects.endBus
  | .beginTransmission address => EncodeSelects.beginTransmission address
  | .writeByte value => EncodeSelects.writeByte value
  | .writeBytes count payload => EncodeSelects.writeBytes count payload
  | .endTransmission stopBit => EncodeSelects.endTransmission stopBit
  | .requestFrom address quantity stopBit => EncodeSelects.requestFrom address quantity stopBit
  | .available => EncodeSelects.available
  | .read => EncodeSelects.read
  | .peek => EncodeSelects.peek
  | .onReceive register handle => EncodeSelects.onReceive register handle
  | .onRequest register handle => EncodeSelects.onRequest register handle
  | .service => EncodeSelects.service
  | .bufStore buf value => EncodeSelects.bufStore buf value
  | .bufRead buf => EncodeSelects.bufRead buf
  | .bufPeek buf => EncodeSelects.bufPeek buf
  | .bufAvailable buf => EncodeSelects.bufAvailable buf
  | .bufIsFull buf => EncodeSelects.bufIsFull buf
  | .bufClear buf => EncodeSelects.bufClear buf

/-- The operands of a command stand in the fields of its word (R75, R76). -/
theorem buildInstr_encodeWord (i : Instr) : buildInstr i.opcode (encodeWord i) i.payload = i := by
  cases i <;> simp [buildInstr, Instr.opcode, Instr.payload, encodeWord, fField_packFields, sField_packFields,
    aField_packFields, wField_packFields]

/-- The word of a well-formed command calls for the payload the command has (R77). -/
theorem payloadLength_encodeWord {i : Instr} (wf : i.wellFormed = true) :
    i.opcode.payloadLength (encodeWord i) = i.payload.length := by
  cases i with
  | writeBytes count payload =>
    have length : payload.length = count.toNat := beq_iff_eq.mp wf
    change (wField (packFields 0x12 false .tx 0 count)).toNat = payload.length
    rw [wField_packFields, length]
  | _ => rfl

theorem decodeWord_encodeWord {i : Instr} (wf : i.wellFormed = true) : decodeWord (encodeWord i) i.payload = .ok i :=
  (decodeWord_eq_ok_iff ..).mpr ⟨i.opcode, decodeOpcode_encodeWord i, (payloadLength_encodeWord wf).symm,
    (buildInstr_encodeWord i).symm⟩

/-- The eight bytes of a word make up the word (R78). -/
theorem wordOfBytes_bytesOfWord (w : CommandWord) :
    wordOfBytes (w.extractLsb' 0 8) (w.extractLsb' 8 8) (w.extractLsb' 16 8) (w.extractLsb' 24 8) (w.extractLsb' 32 8)
      (w.extractLsb' 40 8) (w.extractLsb' 48 8) (w.extractLsb' 56 8) = w := by
  apply BitVec.eq_of_getLsbD_eq
  intro i hi
  simp only [wordOfBytes, BitVec.getLsbD_cast, BitVec.getLsbD_append, BitVec.getLsbD_extractLsb']
  repeat' split
  all_goals (rw [decide_eq_true (by omega), Bool.true_and]; congr 1; omega)

/-- A word that selects a row, serialized with a payload of the right length, decodes to that row's command; the bytes
after the payload remain (R77, R78). -/
theorem decodeBytes_bytesOfWord {w : CommandWord} {o : Opcode} {payload : List Byte} (row : decodeOpcode w = .ok o)
    (length : o.payloadLength w = payload.length) (rest : List Byte) :
    decodeBytes (bytesOfWord w ++ payload ++ rest) = .ok (buildInstr o w payload, rest) := by
  simp [bytesOfWord, decodeBytes, wordOfBytes_bytesOfWord, row, length]

end Sys2Proof.Laws

/-! THEOREMS. The command word and its decoder (R71 to R79, R90). -/

namespace Sys2Proof.Laws

/-- Settles O3: the eight bytes give the word, the word gives the row and the length of the payload, and the fields give
the operands. -/
theorem decodeEncode : Obligations.DecodeEncode := by
  intro i rest wf
  rw [encode, decodeBytes_bytesOfWord (decodeOpcode_encodeWord i) (payloadLength_encodeWord wf), buildInstr_encodeWord]

/-- Settles O2: the mask test is read field by field. -/
theorem maskSelectsRow : Obligations.MaskSelectsRow := by
  intro w o
  refine ⟨decodeOpcode_eq_ok_iff w o, fun h => ?_⟩
  obtain ⟨op, r15, r31, f, s, a, wd⟩ := (mask_iff_selects w o).mp h
  exact ⟨op, by rw [r15]; rfl, by rw [r31]; rfl, f, s, a, wd⟩

/-- Settles O4: the row is fixed by the word, and what the row's command leaves out of the word is 0 in it. -/
theorem encodeDecode : Obligations.EncodeDecode := by
  intro w payload i decoded
  obtain ⟨o, row, length, rfl⟩ := (decodeWord_eq_ok_iff w payload i).mp decoded
  have selects : Selects w o := (mask_iff_selects w o).mp ((decodeOpcode_eq_ok_iff w o).mp row)
  exact ⟨encodeWord_buildInstr selects payload, payload_buildInstr length, wellFormed_buildInstr length⟩

end Sys2Proof.Laws

/-! THEOREMS. The worked encodings of R90. -/

namespace Sys2Proof.Laws

/-- A word known to be the encoding of a well-formed command decodes to it. -/
theorem decodeWord_of_encodeWord {w : CommandWord} {payload : List Byte} {i : Instr} (word : encodeWord i = w)
    (held : i.payload = payload) (wf : i.wellFormed = true) : decodeWord w payload = .ok i := by
  subst word held
  exact decodeWord_encodeWord wf

/-- Settles O1: the words are computed by the encoder, and what is encoded decodes back. -/
theorem workedEncodings : Obligations.WorkedEncodings := by
  refine ⟨fun p listed => ?_, fun bytes => ⟨rfl, ?_⟩⟩
  · have encoded : encodeWord p.2 = p.1 ∧ p.2.payload = [] ∧ p.2.wellFormed = true := by
      revert p listed
      decide
    obtain ⟨word, none, wf⟩ := encoded
    exact ⟨word, decodeWord_of_encodeWord word none wf⟩
  · have row : decodeOpcode 0x0000000300000012 = .ok .writeBytes := decodeOpcode_encodeWord (.writeBytes 3 bytes)
    rw [decodeWord, row]
    rfl

end Sys2Proof.Laws

/-! THEOREMS. The command presented first, taken by a step or refused (R72, R73, R85, R86). -/

namespace Sys2Proof.Machine

theorem nextPresented_of_idle {s : State} {p : Presented} {rest : List Presented} (idle : s.ctx.seq = .idle)
    (first : s.presented = p :: rest) : s.nextPresented = some (p, rest) := by
  simp [State.nextPresented, State.stuck, idle, first]

theorem step_accepts {s : State} {p : Presented} {rest : List Presented} {i : Instr} (idle : s.ctx.seq = .idle)
    (first : s.presented = p :: rest) (accepted : accept p = .ok i) : step s = exec i { s with presented := rest } := by
  simp [step, idle, nextPresented_of_idle idle first, accepted]

theorem step_refuses {s : State} {p : Presented} {rest : List Presented} {r : Refusal} (idle : s.ctx.seq = .idle)
    (first : s.presented = p :: rest) (refused : accept p = .error r) : step s = .refused r := by
  simp [step, idle, nextPresented_of_idle idle first, refused]

theorem accept_admitted {p : Presented} {i : Instr} (decoded : decodeWord p.command.word p.command.payload = .ok i)
    (admitted : p.port.admits i.opcode.cmdClass = true) : accept p = .ok i := by
  simp [accept, decoded, admitted]

theorem accept_wrongPort {p : Presented} {i : Instr} (decoded : decodeWord p.command.word p.command.payload = .ok i)
    (excluded : p.port.admits i.opcode.cmdClass = false) : accept p = .error (.wrongPort p.port) := by
  simp [accept, decoded, excluded]

theorem accept_reserved {p : Presented} {e : Reject} (row : decodeOpcode p.command.word = .error e) :
    accept p = .error (.reserved e) := by
  simp [accept, decodeWord, row]

/-- The port of a class admits it (R73). -/
theorem portOf_admits (c : CmdClass) : (portOf c).admits c = true := by cases c <;> rfl

/-- Settles O5: the decoder rejects the word by that name. -/
theorem reservedWordRefused : Obligations.ReservedWordRefused := by
  intro s p rest idle first noRow
  exact step_refuses idle first (accept_reserved (Laws.decodeOpcode_reserved noRow))

/-- Settles O7: the presentation is accepted. -/
theorem stepRunsDecoded : Obligations.StepRunsDecoded := by
  intro s p rest i idle first decoded admitted
  exact step_accepts idle first (accept_admitted decoded admitted)

/-! ## The words of the opcode table -/

/-- The payload of zeros has the length that a row's word calls for. -/
theorem zeroPayload_length {w : CommandWord} {o : Opcode} (row : decodeOpcode w = .ok o) :
    (zeroPayload w).length = o.payloadLength w := by
  simp [zeroPayload, row]

/-- A table word decodes as its 64-bit word with the payload of zeros does. -/
theorem decodeTableWord_eq_some {nbits w : Nat} {i : Instr} (decoded : decodeTableWord nbits w = some i) :
    ∃ o, decodeOpcode (BitVec.ofNat 64 (w % 2 ^ nbits)) = .ok o
      ∧ i = buildInstr o (BitVec.ofNat 64 (w % 2 ^ nbits)) (zeroPayload (BitVec.ofNat 64 (w % 2 ^ nbits))) := by
  unfold decodeTableWord at decoded
  simp only at decoded
  split at decoded
  · cases decoded
  · rename_i o row
    cases decoded
    exact ⟨o, row, rfl⟩

/-- A row's word, presented at the port of its class, is accepted. -/
theorem accept_presentWord {w : CommandWord} {o : Opcode} (row : decodeOpcode w = .ok o) :
    accept (presentWord w) = .ok (buildInstr o w (zeroPayload w)) := by
  have port : (presentWord w).port = portOf o.cmdClass := by simp [presentWord, row]
  refine accept_admitted ((Laws.decodeWord_eq_ok_iff ..).mpr ⟨o, row, zeroPayload_length row, rfl⟩) ?_
  rw [Laws.opcode_buildInstr, port]
  exact portOf_admits _

/-- Settles O9: the word is presented first and accepted, and the presentations behind it are those of `s`. -/
theorem fetchWordRuns : Obligations.FetchWordRuns := by
  intro s nbits w i decoded
  obtain ⟨o, row, rfl⟩ := decodeTableWord_eq_some decoded
  exact step_accepts (s := s.withFetchWord nbits w) rfl rfl (accept_presentWord row)

end Sys2Proof.Machine

/-! SUPPORT. A SERVICE step as its snapshot and its callback show it (R170 to R175, R186): where every call returns, the
step runs the case of the snapshot that the peripheral reports; and the first refusal in a callback is the stop of the
step (log 15). -/

namespace Sys2Proof.Machine

/-! ## The snapshot -/

/-- Where every call returns, a question takes one answer and adds one call to the event history. -/
theorem askFlag_of_callsReturn {s : State} (calls : s.callsReturn) (c : Bool → Call) :
    s.askFlag c = ((s.answer 0).flag, { s.asked 1 with trace := s.trace ++ [c (s.answer 0).flag] }) := by
  rw [State.askFlag, State.call_returns _ s.dropDraw calls, s.nextDraw_eq_answer]
  simp [State.record, State.dropDraw, State.asked]

/-- The state in which the case of the snapshot `p` runs: the interrupt agent has entered, and asked its six questions
(R171, R172). -/
def State.snapped (p : Snapshot) (s : State) : State :=
  { s.asked 6 with inService := true, trace := s.trace ++ snapshotCalls p }

@[simp] theorem State.snapped_stop (p : Snapshot) (s : State) : (s.snapped p).stop = s.stop := rfl
@[simp] theorem State.snapped_callsLeft (p : Snapshot) (s : State) : (s.snapped p).callsLeft = s.callsLeft := rfl
@[simp] theorem State.snapped_apps (p : Snapshot) (s : State) : (s.snapped p).apps = s.apps := rfl

theorem State.reports_iff (s : State) (p : Snapshot) : s.reports p ↔ (s.answer 0).flag = true ∧ (s.answer 1).flag = p.am
    ∧ (s.answer 2).flag = p.sp ∧ (s.answer 3).flag = p.rs ∧ (s.answer 4).flag = p.rd ∧ (s.answer 5).flag = p.dr := by
  have six : List.range 6 = [0, 1, 2, 3, 4, 5] := rfl
  simp [State.reports, six]

/-- The question whether the peripheral is in slave mode, asked on entry (R171). -/
theorem enterService_asks {s : State} (calls : s.callsReturn) : s.enterService.askFlag .isSlaveMode
    = ((s.answer 0).flag,
      { s.asked 1 with inService := true, trace := s.trace ++ [.isSlaveMode (s.answer 0).flag] }) :=
  askFlag_of_callsReturn (s := s.enterService) calls .isSlaveMode

/-- `V1` (R172): the snapshot is made of the next five answers. -/
theorem readSnapshot_of_callsReturn {s : State} (calls : s.callsReturn) : readSnapshot s
    = (⟨(s.answer 0).flag, (s.answer 1).flag, (s.answer 2).flag, (s.answer 3).flag, (s.answer 4).flag⟩,
      { s.asked 5 with trace := s.trace ++ [.isAddressMatched (s.answer 0).flag, .isStopSignaled (s.answer 1).flag,
          .isRestartSignaled (s.answer 2).flag, .isPeerRequestingRead (s.answer 3).flag,
          .isByteReady (s.answer 4).flag] }) := by
  have later (n : Nat) (trace : List Call) (c : Bool → Call) : ({ s.asked n with trace := trace } : State).askFlag c
      = ((s.answer n).flag, { s.asked (n + 1) with trace := trace ++ [c (s.answer n).flag] }) := by
    rw [askFlag_of_callsReturn (s := { s.asked n with trace := trace }) calls]
    have answer : State.answer { s.asked n with trace := trace } 0 = s.answer n := State.answer_asked n 0 s
    simp only [answer, ← State.asked_asked n 1 s]
    rfl
  unfold readSnapshot
  rw [askFlag_of_callsReturn calls]
  simp only [later, List.append_assoc, List.cons_append, List.nil_append]

/-- A SERVICE step that finds slave mode runs the case of the snapshot that the peripheral reports (R170 to R173). -/
theorem serviceStep_of_reports {s : State} {p : Snapshot} (inService : s.inService = false) (calls : s.callsReturn)
    (reports : s.reports p) : serviceStep s = (serviceCases p (s.snapped p)).leaveService := by
  obtain ⟨mode, am, sp, rs, rd, dr⟩ := (s.reports_iff p).mp reports
  let t : State := { s.asked 1 with inService := true, trace := s.trace ++ [.isSlaveMode true] }
  have asked : s.enterService.askFlag .isSlaveMode = (true, t) := by rw [enterService_asks calls, mode]
  have answer (i : Nat) : t.answer i = s.answer (1 + i) := State.answer_asked 1 i s
  have snapshot : readSnapshot t = (p, s.snapped p) := by
    rw [readSnapshot_of_callsReturn (s := t) calls]
    simp only [answer, Nat.add_zero, Nat.reduceAdd, am, sp, rs, rd, dr, Prod.mk.injEq, true_and]
    simp only [t, State.snapped, snapshotCalls, State.asked, List.drop_drop, List.append_assoc]
    rfl
  simp only [serviceStep, inService, asked, snapshot, Bool.false_eq_true, ↓reduceIte]

/-! ## The callback -/

theorem callback_cons {s : State} {r : AppRun} {more : List AppRun} (apps : s.apps = r :: more) (c : Call) :
    s.callback c = runApp r { s.record c with apps := more } := by
  simp [State.callback, apps]

theorem ackEvent_stop {s : State} (calls : s.callsReturn) : (ackEvent s).stop = s.stop :=
  (State.call_stop_returns _ _ (State.call_callsLeft_returns _ s calls)).trans (State.call_stop_returns _ s calls)

/-- A SERVICE step that calls a callback meets what the callback meets (R174, R175). -/
theorem serviceCases_callsBack {s : State} {p : Snapshot} (calls : s.callsReturn) (back : s.callsBack p) :
    ∃ t : State, (serviceCases p s).stop = (t.callback (s.handOver p)).stop ∧ t.apps = s.apps ∧ t.stop = s.stop := by
  rcases back with ⟨ends, registered⟩ | ⟨ends, am, rd, registered⟩
  · have called : serviceCases p s = ((ackEvent s).callback (s.handOver p)).clearBuf .rx := by
      simp only [serviceCases, State.handOver, ends, ↓reduceIte]
      exact congrArg (State.clearBuf .rx) (if_pos registered)
    exact ⟨ackEvent s, by rw [called, State.clearBuf_stop], rfl, ackEvent_stop calls⟩
  · have called : serviceCases p s = (((ackEvent s).clearBuf .tx).setOpen true).callback (s.handOver p) := by
      simp only [serviceCases, State.handOver, ends, am, rd, Bool.false_eq_true, ↓reduceIte]
      exact if_pos registered
    exact ⟨((ackEvent s).clearBuf .tx).setOpen true, by rw [called], rfl, ackEvent_stop calls⟩

/-! ## The first stop of a callback -/

theorem raiseStop_of_none {s : State} (free : s.stop = none) (x : Stop) : (s.raiseStop x).stop = some x := by
  simp [State.raiseStop, free]

theorem raiseStop_of_some {s : State} {y : Stop} (met : s.stop = some y) (x : Stop) :
    (s.raiseStop x).stop = some y := by
  simp [State.raiseStop, met]

/-- A command of a callback does not undo a stop that has been met. -/
theorem appCommand_stop_of_some {s : State} {y : Stop} (met : s.stop = some y) (c : Command) :
    (appCommand s c).stop = some y := by
  unfold appCommand
  split
  · exact raiseStop_of_some met _
  · split
    · exact raiseStop_of_some met _
    · rename_i f meaning
      rw [State.deliver_stop, (appMeaning_frame meaning s).1, met]

theorem foldl_appCommand_stop_of_some (l : List Command) {s : State} {y : Stop} (met : s.stop = some y) :
    (l.foldl appCommand s).stop = some y :=
  List.foldlRecOn (motive := fun t : State => t.stop = some y) l appCommand met fun _ met c _ =>
    appCommand_stop_of_some met c

/-- An admitted command meets no stop. -/
theorem appCommand_stop_of_admitted {c : Command} (admitted : c.admitted = true) (s : State) :
    (appCommand s c).stop = s.stop := by
  unfold Command.admitted at admitted
  unfold appCommand
  split at admitted
  · cases admitted
  · rename_i i decoded
    obtain ⟨f, meaning⟩ := Option.isSome_iff_exists.mp admitted
    simp only [meaning]
    exact (appMeaning_frame meaning s).1

theorem foldl_appCommand_stop_of_admitted {l : List Command} (admitted : ∀ c ∈ l, c.admitted = true) (s : State) :
    (l.foldl appCommand s).stop = s.stop :=
  List.foldlRecOn (motive := fun t : State => t.stop = s.stop) l appCommand rfl fun t same c listed =>
    (appCommand_stop_of_admitted (admitted c listed) t).trans same

/-- A command that is none of the five has no meaning in a callback (R86). -/
theorem appMeaning_of_not_forCallbacks {i : Instr} (excluded : forCallbacks i = false) : appMeaning i = none := by
  cases i with
  | writeByte | writeBytes | available | read | peek => cases excluded
  | _ => rfl

/-- The first command of a callback that is not one of the five is the stop of the callback, whatever comes after it
(R86, R242). -/
theorem runApp_stop_of_excluded {before after : List Command} {c : Command} {i : Instr} {s : State}
    (free : s.stop = none) (admitted : ∀ x ∈ before, x.admitted = true) (decoded : decodeWord c.word c.payload = .ok i)
    (excluded : forCallbacks i = false) (returns : Bool) :
    (runApp ⟨before ++ c :: after, returns⟩ s).stop = some (.refusal .notAdmittedInCallback) := by
  have atC : (before.foldl appCommand s).stop = none := (foldl_appCommand_stop_of_admitted admitted s).trans free
  have refused : (appCommand (before.foldl appCommand s) c).stop = some (.refusal .notAdmittedInCallback) := by
    simp only [appCommand, decoded, appMeaning_of_not_forCallbacks excluded]
    exact raiseStop_of_none atC _
  have kept : ((before ++ c :: after).foldl appCommand s).stop = some (.refusal .notAdmittedInCallback) := by
    rw [List.foldl_append, List.foldl_cons]
    exact foldl_appCommand_stop_of_some after refused
  unfold runApp
  cases returns
  · exact raiseStop_of_some kept _
  · exact kept

end Sys2Proof.Machine

/-! THEOREMS. The classes of commands that a port and a callback do not admit (R73, R86, R242). -/

namespace Sys2Proof.Machine

/-- A SERVICE step that meets a refusal is refused (log 15). -/
theorem exec_service_refused {s : State} {r : Refusal}
    (met : (serviceStep { s with stop := none }).stop = some (.refusal r)) : exec .service s = .refused r := by
  rw [exec, execService, outcome_serviceStep, met]

/-- Settles O6: at the host port the class decides; in a callback the command is the first stop that SERVICE meets. -/
theorem classesRefused : Obligations.ClassesRefused := by
  constructor
  · intro s p rest i idle first port decoded notHost
    have excluded : p.port.admits i.opcode.cmdClass = false := by
      rw [port]
      rcases notHost with rfl | ⟨sel, ⟨v, rfl⟩ | rfl | rfl | rfl | rfl | rfl⟩ <;> rfl
    rw [step_refuses idle first (accept_wrongPort decoded excluded), port]
  · intro s p before after c returns more i inService calls reports back apps admitted decoded excluded
    let s0 : State := { s with stop := none }
    have cases : serviceStep s0 = (serviceCases p (s0.snapped p)).leaveService :=
      serviceStep_of_reports (s := s0) inService calls reports
    obtain ⟨t, stop, sameApps, free⟩ := serviceCases_callsBack (s := s0.snapped p)
      ((State.snapped_callsLeft p s0).trans calls) back
    rw [State.snapped_apps] at sameApps
    rw [State.snapped_stop] at free
    apply exec_service_refused
    change (serviceStep s0).stop = _
    rw [cases, State.leaveService_stop, stop, callback_cons (sameApps.trans apps)]
    exact runApp_stop_of_excluded (s := { t.record _ with apps := more }) free admitted decoded excluded returns

end Sys2Proof.Machine

/-! THEOREMS. The internal buffer commands (R101 to R106). -/

namespace Sys2Proof.Machine

theorem State.setBuf_buf_self (sel : BufSel) (s : State) : s.setBuf sel (s.buf sel) = s := by cases sel <;> rfl

theorem exec_bufStore (sel : BufSel) (v : Byte) (s : State) : exec (.bufStore sel v) s
    = .next ((s.setBuf sel ((s.buf sel).store s.cfg.nCap v).2).deliver .buffer
        (boolResult ((s.buf sel).store s.cfg.nCap v).1)) := rfl

theorem exec_bufRead (sel : BufSel) (s : State) : exec (.bufRead sel) s
    = .next ((s.setBuf sel (s.buf sel).read.2).deliver .buffer (byteResult (s.buf sel).read.1)) := rfl

theorem exec_bufPeek (sel : BufSel) (s : State) :
    exec (.bufPeek sel) s = .next (s.deliver .buffer (byteResult (s.buf sel).c.head?)) := rfl

theorem exec_bufAvailable (sel : BufSel) (s : State) :
    exec (.bufAvailable sel) s = .next (s.deliver .buffer (s.buf sel).available) := rfl

theorem exec_bufIsFull (sel : BufSel) (s : State) :
    exec (.bufIsFull sel) s = .next (s.deliver .buffer (boolResult ((s.buf sel).isFull s.cfg.nCap))) := rfl

theorem Ring.read_empty {r : Ring} (empty : r.c = []) : r.read = (none, r) := by
  obtain ⟨c, storage, head⟩ := r
  obtain rfl : c = [] := empty
  rfl

theorem boolResult_isFull (n : Nat) (r : Ring) : boolResult (r.isFull n) = if r.c.length = n then 1 else 0 := by
  simp [boolResult, Ring.isFull]

/-- The capacity is below `2 ^ 32`, so 32 bits hold the length (R9, R104). -/
theorem Ring.available_toNat {cfg : Config} {r : Ring} (legal : cfg.wf) (within : r.c.length ≤ cfg.nCap) :
    r.available.toNat = r.c.length := by
  obtain ⟨-, capacity⟩ := legal
  exact Nat.mod_eq_of_lt (by omega)

/-- Settles O11: whether the buffer is full decides what `Ring.store` does. -/
theorem bufStore : Obligations.BufStore := by
  intro sel v s
  constructor
  · intro full
    rw [exec_bufStore, Ring.store_full _ v _ full, State.setBuf_buf_self]
    rfl
  · intro room
    refine ⟨((s.buf sel).store s.cfg.nCap v).2, by rw [Ring.store_c, if_neg room], ?_⟩
    rw [exec_bufStore, Ring.store_room _ v _ room]
    rfl

/-- Settles O12: an empty buffer is read as it is; otherwise the head of the sequence is the result and its tail stays. -/
theorem bufRead : Obligations.BufRead := by
  intro sel s
  constructor
  · intro empty
    rw [exec_bufRead, Ring.read_empty empty, State.setBuf_buf_self]
    rfl
  · intro v rest held
    refine ⟨(s.buf sel).read.2, by rw [Ring.read_c, held, List.tail_cons], ?_⟩
    rw [exec_bufRead, Ring.read_fst, held]
    rfl

/-- Settles O13: the peeked byte is read off an empty and a non-empty sequence, and the length fits the result word. -/
theorem bufObserve : Obligations.BufObserve := by
  intro sel s legal within
  refine ⟨?_, ⟨_, Ring.available_toNat legal within, exec_bufAvailable sel s⟩, ?_⟩
  · rw [exec_bufPeek]
    cases (s.buf sel).c <;> rfl
  · rw [exec_bufIsFull, boolResult_isFull]

/-- Settles O14: `Ring.clear` replaces the sequence and nothing else. -/
theorem bufClear : Obligations.BufClear := fun _ _ => rfl

end Sys2Proof.Machine

/-! THEOREMS. The concrete ring and the buffer it stands for (R108). The read cursor is `(head + n - length) % n`, so each
operation is a fact about this cursor; that the buffer stays well-formed is `Ring.store_wf`, `Ring.read_wf` and
`Ring.clear_wf`. -/

namespace Sys2Proof.Machine

/-- A store moves the write cursor on and makes the buffer one longer, and the read cursor stays. -/
theorem readCursor_store {n length : Nat} (head : Nat) (room : length < n) :
    (head + n - length) % n = ((head + 1) % n + n - (length + 1)) % n := by
  rw [Nat.add_sub_assoc room, Nat.mod_add_mod]
  congr 1
  omega

/-- A read makes the buffer one shorter, and the read cursor moves on. -/
theorem readCursor_read {n length : Nat} (head : Nat) (within : length + 1 ≤ n) :
    ((head + n - (length + 1)) % n + 1) % n = (head + n - length) % n := by
  rw [Nat.mod_add_mod]
  congr 1
  omega

/-- Byte `i` of the sequence is `store[(tail + i) mod N_CAP]`. -/
theorem ConcreteRing.standsFor_byte {n : Nat} {k : ConcreteRing} {r : Ring} (stands : k.standsFor n r) {i : Nat}
    (held : i < k.count) : k.store[(k.tail + i) % n]? = r.c[i]? := by
  obtain ⟨store, -, count, tail, -, -, -, bytes⟩ := stands
  rw [store, tail, Nat.mod_add_mod]
  exact bytes i (count ▸ held)

theorem ConcreteRing.put_standsFor {n : Nat} {k : ConcreteRing} {r : Ring} (stands : k.standsFor n r) (v : Byte) :
    (k.put n v).1 = (r.store n v).1 ∧ (k.put n v).2.standsFor n (r.store n v).2 := by
  have ⟨store, head, count, tail, wf⟩ := stands
  have ⟨within, _⟩ := wf
  by_cases full : r.c.length = n
  · rw [ConcreteRing.put, if_pos (count.trans full), Ring.store_full n v r full]
    exact ⟨rfl, stands⟩
  · have length : (r.c ++ [v]).length = r.c.length + 1 := List.length_append
    have kept := Ring.store_wf n v r wf
    rw [Ring.store_room n v r full] at kept ⊢
    rw [ConcreteRing.put, if_neg (count ▸ full), store, head, count]
    refine ⟨rfl, rfl, rfl, length.symm, ?_, kept⟩
    rw [length]
    exact tail.trans (readCursor_store r.head (by omega))

theorem ConcreteRing.get_standsFor {n : Nat} {k : ConcreteRing} {r : Ring} (stands : k.standsFor n r) :
    (k.get n).1 = r.read.1 ∧ (k.get n).2.standsFor n r.read.2 := by
  have ⟨store, head, count, tail, wf⟩ := stands
  have ⟨within, _, place, _⟩ := wf
  cases held : r.c with
  | nil =>
    rw [ConcreteRing.get, if_pos (by rw [count, held]; rfl), Ring.read_empty held]
    exact ⟨rfl, stands⟩
  | cons v rest =>
    have length : r.c.length = rest.length + 1 := by rw [held, List.length_cons]
    have nonempty : 0 < k.count := by omega
    have oldest : k.store[k.tail]? = r.read.1 := by
      have byte := ConcreteRing.standsFor_byte stands nonempty
      rwa [Nat.add_zero, Nat.mod_eq_of_lt (tail ▸ Nat.mod_lt _ (by omega)), ← List.head?_eq_getElem?] at byte
    rw [ConcreteRing.get, if_neg (by omega)]
    refine ⟨oldest, store, head, by simp [count], ?_, Ring.read_wf n r wf⟩
    simp only [tail, Ring.read_c, held, List.tail_cons]
    exact readCursor_read r.head (length ▸ within)

theorem ConcreteRing.reset_standsFor {n : Nat} {k : ConcreteRing} {r : Ring} (stands : k.standsFor n r) :
    k.reset.standsFor n r.clear := by
  have ⟨store, head, _, _, wf⟩ := stands
  have ⟨_, _, place, _⟩ := wf
  have cursor : (r.head + n - 0) % n = r.head := by
    rw [Nat.sub_zero, Nat.add_mod_right, Nat.mod_eq_of_lt place]
  exact ⟨store, head, rfl, head.trans cursor.symm, Ring.clear_wf n r wf⟩

/-- Settles O16: the bytes and the three operations are one lemma each. -/
theorem concreteRingRefines : Obligations.ConcreteRingRefines := fun _ _ _ stands =>
  ⟨fun _ held => ConcreteRing.standsFor_byte stands held, fun v => ConcreteRing.put_standsFor stands v,
    ConcreteRing.get_standsFor stands, ConcreteRing.reset_standsFor stands⟩

end Sys2Proof.Machine

/-! THEOREMS. The configuration calls of a command under any interleaving (R121 to R124, R180, R203 to R206). A command in the
middle is read by the configuration requests it may still make; an action makes the first of them, SERVICE makes none. -/

namespace Sys2Proof.Machine

/-- The configuration requests that the rest of the running command may make, from its current label on. -/
def State.mayStillConfigure (s : State) (asked : List Request) : Prop :=
  match s.ctx.seq with
  | .m0 => asked = [.configureAsMaster s.activeClockRate, .enable]
  | .s0 => asked = [.configureAsSlave s.ctx.addr s.ctx.gc, .enable]
  | .k0 | .k1 => asked = [.disable, .configureAsMaster s.ctx.rate, .enable]
  | .k2 => asked = [.configureAsMaster s.ctx.rate, .enable]
  | .z0 => asked = [.disable, .configureAsMaster s.activeClockRate, .enable]
  | .z1 => asked = [.configureAsMaster s.activeClockRate, .enable]
  | .m1 | .s1 | .k3 | .z2 => asked = [.enable]
  | .n0 => asked = [.disable]
  | .e0 | .e1 | .e2 | .e2Own | .e2Read | .e2Send | .e2Clear | .e4 | .e5
  | .f0 | .f1 | .f2 | .f3 | .f3Store | .f4 | .f4Own | .f5 | .f5Receive | .f5Store | .f6 | .f7 | .f7Stop | .f8 | .f10 =>
    asked = [] ∨ asked = [.disable, .configureAsMaster s.activeClockRate, .enable]
  | .idle | .zClose | .b0 | .b1 | .b2 | .w0 | .w1 | .x0 | .x1 | .x2 | .x3 | .e6 | .f9 => asked = []

theorem State.exists_mayStillConfigure (s : State) : ∃ more, s.mayStillConfigure more := by
  unfold mayStillConfigure
  split <;> simp

theorem State.mayStillConfigure_congr {s t : State} (ctx : t.ctx = s.ctx) (rate : t.activeClockRate = s.activeClockRate)
    (asked : List Request) : t.mayStillConfigure asked = s.mayStillConfigure asked := by
  simp only [mayStillConfigure, ctx, rate]

/-- The configuration requests of some calls, in order. -/
def configurationRequests (calls : List Call) : List Request := (configurationCalls calls).map Call.request

theorem configurationRequests_append (a b : List Call) :
    configurationRequests (a ++ b) = configurationRequests a ++ configurationRequests b := by
  simp [configurationRequests]

/-- Whether one call stands among the configuration requests: it counts by its request, answered or not. -/
theorem configurationRequests_entry (c : Call) (s : State) :
    configurationRequests [s.entry c] = if c.request.isConfiguration then [c.request] else [] := by
  simp only [configurationRequests, configurationCalls, List.filter_cons, List.filter_nil, State.request_entry]
  split <;> simp

/-- An action makes the first of the configuration requests that were left to make, or none. -/
theorem act_configures (s : State) (calls : List Call) (more : List Request) : (act s).trace = s.trace ++ calls →
    (act s).mayStillConfigure more → s.mayStillConfigure (configurationRequests calls ++ more) := by
  obtain ⟨d, hd⟩ := s.ownerOk_ctx
  obtain ⟨d', hd'⟩ := (s.call .signalStop).ownerOk_ctx
  have none : configurationRequests [] = [] := rfl
  cases hl : s.ctx.seq <;> simp only [act, hl]
  case idle => simp +contextual [none]
  all_goals
    simp only [actM0, actM1, actS0, actS1, actK0, actK1, actK2, actK3, actN0, actZ0, actZ1, actZ2, actZClose, actB0, actB1,
      actB2, actW0, actW1, actX0, actX1, actX2, actX3, actE0, actE1, actE2, actE2Own, actE2Read, actE2Send, actE2Clear,
      actE4, actE5, actE6, actF0, actF1, actF2, actF3, actF3Store, actF4, actF4Own, actF5, actF5Receive, actF5Store, actF6,
      actF7, actF7Stop, actF8, actF9, actF10]
    repeat' split
    all_goals
      simp +contextual [State.mayStillConfigure, hl, hd, hd', Ctx.idle, none, configurationRequests_entry, Call.request,
        Request.isConfiguration, eq_comm (b := calls)]

theorem configurationRequests_ofService {calls : List Call} (h : ∀ c ∈ calls, c.ofService) :
    configurationRequests calls = [] := by
  rw [configurationRequests, (ofService_calls h).1, List.map_nil]

/-- The calls of a command that was allowed these configuration requests, when its run from `s` has come to `t`: with what it
may still make they are among those allowed, and a command that is stuck has made the beginning of such requests. -/
def ConfiguresWithin (allowed : List Request → Prop) (s t : State) : Prop :=
  ∃ calls, t.trace = s.trace ++ calls
    ∧ (t.ctx.hung = false → ∀ more, t.mayStillConfigure more → allowed (configurationRequests calls ++ more))
    ∧ ∃ more, allowed (configurationRequests calls ++ more)

theorem ConfiguresWithin.start {allowed : List Request → Prop} {s : State}
    (h : ∀ more, s.mayStillConfigure more → allowed more) : ConfiguresWithin allowed s s :=
  ⟨[], (List.append_nil _).symm, fun _ => h, s.exists_mayStillConfigure.imp h⟩

/-- The command is stuck in a call, after calls that use up the first of what it might still make. -/
theorem ConfiguresWithin.stick {allowed : List Request → Prop} {s t u : State} {calls : List Call} {more : List Request}
    (h : ConfiguresWithin allowed s t) (free : t.ctx.hung = false) (made : u.trace = t.trace ++ calls)
    (left : t.mayStillConfigure (configurationRequests calls ++ more)) (stuck : u.ctx.hung = true) :
    ConfiguresWithin allowed s u := by
  obtain ⟨before, trace, within, _⟩ := h
  refine ⟨before ++ calls, by rw [made, trace, List.append_assoc], by simp [stuck], more, ?_⟩
  rw [configurationRequests_append, List.append_assoc]
  exact within free _ left

/-- The command goes on, after calls that use up the first of what it might still make. -/
theorem ConfiguresWithin.goOn {allowed : List Request → Prop} {s t u : State} {calls : List Call}
    (h : ConfiguresWithin allowed s t) (free : t.ctx.hung = false) (made : u.trace = t.trace ++ calls)
    (left : ∀ more, u.mayStillConfigure more → t.mayStillConfigure (configurationRequests calls ++ more)) :
    ConfiguresWithin allowed s u := by
  obtain ⟨before, trace, within, _⟩ := h
  have later (more) (h : u.mayStillConfigure more) : allowed (configurationRequests (before ++ calls) ++ more) := by
    rw [configurationRequests_append, List.append_assoc]
    exact within free _ (left more h)
  exact ⟨before ++ calls, by rw [made, trace, List.append_assoc], fun _ => later,
    u.exists_mayStillConfigure.imp later⟩

/-- SERVICE makes no configuration call (R124). -/
theorem ConfiguresWithin.serviceSlot {allowed : List Request → Prop} {s t : State} (h : ConfiguresWithin allowed s t)
    (free : t.ctx.hung = false) : ConfiguresWithin allowed s (serviceSlot t) := by
  have served := serviceSlot_served t
  obtain ⟨calls, made, ofService⟩ := served.trace
  refine h.goOn free made fun more left => ?_
  rw [configurationRequests_ofService ofService, List.nil_append]
  rwa [State.mayStillConfigure_congr served.ctx served.activeClockRate] at left

theorem ConfiguresWithin.advance {allowed : List Request → Prop} {s t : State} (h : ConfiguresWithin allowed s t)
    (free : t.ctx.hung = false) : ConfiguresWithin allowed s (advance t) := by
  obtain ⟨calls, made⟩ := (act_acted t).trace
  rcases advance_cases t with e | ⟨_, ⟨e, _⟩ | ⟨e, _⟩⟩ <;> rw [e]
  · exact h.goOn free made fun more => act_configures t calls more made
  · exact h
  · obtain ⟨more, left⟩ := (act t).exists_mayStillConfigure
    exact h.stick free made (act_configures t calls more made left) rfl

theorem ConfiguresWithin.runCommand {allowed : List Request → Prop} {s t : State} (h : ConfiguresWithin allowed s t) :
    ConfiguresWithin allowed s (runCommand t) := by
  refine run_induction_running (ConfiguresWithin allowed s) (fun u running within => ?_) _ t h
  have free : u.ctx.hung = false := (u.running_iff.mp running).2.1
  exact (within.serviceSlot free).advance (by rw [serviceSlot_ctx, free])

/-- A command may start with the configuration requests of its own pseudocode. -/
theorem mayConfigure_of_start {i : Instr} (several : isMacro i = true) (s : State) (asked : List Request)
    (h : (s.start (firstCtx i)).mayStillConfigure asked) : mayConfigure s.activeClockRate i asked := by
  cases i <;> cases several <;> exact h

/-- A command at its return has no configuration request left to make. -/
theorem State.mayStillConfigure_of_idle {s : State} (idle : s.ctx.seq = .idle) : s.mayStillConfigure [] := by
  simp [mayStillConfigure, idle]

theorem mayConfigure_nil {i : Instr} (single : isMacro i = false) (rate : Word) : mayConfigure rate i [] := by
  cases i <;> cases single <;> rfl

/-- What the interrupt agent does is within what a command of one action is allowed. -/
theorem Served.configures_nothing {s t : State} (h : Served s t) {i : Instr} (single : isMacro i = false) (rate : Word) :
    ∃ (calls : List Call) (more : List Request), t.trace = s.trace ++ calls
      ∧ mayConfigure rate i (configurationRequests calls ++ more) ∧ (t.ctx.hung = false → more = []) := by
  obtain ⟨calls, made, ofService⟩ := h.trace
  refine ⟨calls, [], made, ?_, fun _ => rfl⟩
  rw [configurationRequests_ofService ofService]
  exact mayConfigure_nil single rate

theorem setRegisters_trace (i : Instr) (s : State) : (setRegisters i s).trace = s.trace := by cases i <;> rfl

/-- Settles O19: a run keeps its calls within what the command was allowed, and ends at the return or stuck in a call; the
commands of one action and SERVICE make no configuration call. -/
theorem configurationCallsOnly : Obligations.ConfigurationCallsOnly := by
  intro i s t inv next
  by_cases several : isMacro i = true
  · rw [exec_eq_execFrom several] at next
    obtain ⟨rfl, stop⟩ := outcome_next_stop (State.wellBehaved_run _) next
    have ended : (runCommand (s.start (firstCtx i))).running = false :=
      runCommand_ends _ (firstCtx_onCourse i) inv.rings
    obtain ⟨calls, made, returned, more, stuck⟩ :=
      (ConfiguresWithin.start (mayConfigure_of_start several s)).runCommand
    cases hung : (runCommand (s.start (firstCtx i))).ctx.hung with
    | true => exact ⟨calls, more, made, stuck, fun free => by cases hung.symm.trans free⟩
    | false =>
      have idle : (runCommand (s.start (firstCtx i))).ctx.seq = .idle := by
        by_contra busy
        exact Bool.eq_false_iff.mp ended ((State.running_iff _).mpr ⟨busy, hung, stop⟩)
      exact ⟨calls, [], made, returned hung [] (State.mayStillConfigure_of_idle idle), fun _ => rfl⟩
  · have single : isMacro i = false := Bool.not_eq_true _ ▸ several
    rcases exec_next next with ⟨several', _⟩ | ⟨_, rfl, _⟩ | ⟨served, _⟩
    · exact absurd several' several
    · exact (Served.serviceStep { s with stop := none }).configures_nothing single _
    · rw [← setRegisters_trace i s]
      exact served.configures_nothing single _

end Sys2Proof.Machine

/-! THEOREMS. The commands without a transaction, undisturbed: the configuration commands (R121 to R123, R180), and what is
kept or stored before the bus is asked for anything (R125 to R127). -/

namespace Sys2Proof.Machine

/-! ## Returns -/

/-- A return with no call. -/
theorem State.returnHost_eq_ended {s : State} (stop : s.stop = none) (v : Word) : s.returnHost v = s.ended [] v := by
  simp [returnHost, deliver, ended, stop]

/-- A return together with the last call. -/
theorem State.Quiet.call_returnHost {s : State} (q : s.Quiet) (c : Call) (v : Word) :
    (s.call c).returnHost v = s.ended [c] v := by
  rw [q.call_eq]
  simp [returnHost, deliver, ended, q.stop]

@[simp] theorem State.did_ended (n : Nat) (calls more : List Call) (c : Ctx) (v : Word) (s : State) :
    (s.did n calls c).ended more v = (s.asked n).ended (calls ++ more) v := by
  simp [did, ended, asked]

@[simp] theorem State.asked_zero (s : State) : s.asked 0 = s := rfl

@[simp] theorem State.start_ended (c : Ctx) (calls : List Call) (v : Word) (s : State) :
    (s.start c).ended calls v = s.ended calls v := rfl

/-! ## Configuration -/

/-- A call that leads to the next label. -/
theorem Reaches.call {s : State} (q : s.Quiet) {l l' : Label} (label : s.ctx.seq = l) (busy : l ≠ .idle) {c : Call}
    (h : Machine.act s = (s.call c).goto l') : Reaches s (s.did 0 [c] { s.ctx with seq := l' }) :=
  Reaches.act q (label ▸ busy) (h.trans (q.call_goto c l'))

/-- A call that the command returns with. -/
theorem Reaches.lastCall {s : State} (q : s.Quiet) {l : Label} (label : s.ctx.seq = l) (busy : l ≠ .idle) {c : Call}
    {v : Word} (h : Machine.act s = (s.call c).returnHost v) : Reaches s (s.ended [c] v) :=
  Reaches.act q (label ▸ busy) (h.trans (q.call_returnHost c v))

/-- A command that configures the peripheral and then enables it (R121, R180). -/
theorem exec_configures_enables {i : Instr} {s : State} {c : Call} {l : Label} (several : isMacro i = true)
    (undisturbed : s.undisturbed) (calls : s.callsReturn)
    (first : act (s.start (firstCtx i)) = ((s.start (firstCtx i)).call c).goto l) (label : l = .m1 ∨ l = .s1) :
    exec i s = .next (s.ended [c, .enable] 0) := by
  have q := State.start_quiet i undisturbed calls
  have busy : l ≠ .idle := by rcases label with rfl | rfl <;> decide
  have configured := Reaches.call q rfl (firstCtx_seq several) first
  have enabled := Reaches.lastCall (configured.quiet q) (c := .enable) (v := 0) rfl busy
    (by rcases label with rfl | rfl <;> rfl)
  rw [exec_of_reaches several undisturbed (configured.trans enabled) rfl rfl, State.did_ended]
  rfl

/-- Settles O17: BEGIN_MASTER and BEGIN_SLAVE are two calls, END is one. -/
theorem configureRuns : Obligations.ConfigureRuns := by
  intro s undisturbed calls
  refine ⟨exec_configures_enables rfl undisturbed calls rfl (.inl rfl), ?_, fun address gc =>
    exec_configures_enables rfl undisturbed calls rfl (.inr rfl)⟩
  have q := State.start_quiet .endBus undisturbed calls
  rw [exec_of_reaches rfl undisturbed (Reaches.lastCall q rfl (firstCtx_seq rfl) rfl) rfl rfl]
  rfl

/-- Settles O18: the rate is kept by an action with no call, and three calls follow. -/
theorem setClockRuns : Obligations.SetClockRuns := by
  intro rate s undisturbed calls
  let s0 := s.start (firstCtx (.setClock rate))
  have q0 : s0.Quiet := State.start_quiet (.setClock rate) undisturbed calls
  have kept : Reaches s0 (actK0 s0) := Reaches.act q0 (firstCtx_seq rfl) rfl
  have q1 := kept.quiet q0
  have disabled := Reaches.call q1 (c := .disable) (l := .k1) (l' := .k2) rfl (by decide) rfl
  have q2 := disabled.quiet q1
  have configured := Reaches.call q2 (c := .configureAsMaster rate) (l := .k2) (l' := .k3) rfl (by decide) rfl
  have enabled := Reaches.lastCall (configured.quiet q2) (c := .enable) (v := 0) (l := .k3) rfl (by decide) rfl
  rw [exec_of_reaches rfl undisturbed (kept.trans (disabled.trans (configured.trans enabled))) rfl rfl]
  simp only [State.did_ended, State.asked_zero, List.singleton_append]
  rfl

/-! ## The write transaction before END_TRANSMISSION -/

/-- Settles O20: clearing `tx` keeps its storage and its cursor. -/
theorem beginTransmissionOpens : Obligations.BeginTransmissionOpens :=
  fun address _ undisturbed => exec_beginTransmission address undisturbed

/-- WRITE_BYTE undisturbed tests the status flag and stores at once (R126). -/
theorem exec_writeByte {s : State} (v : Byte) (undisturbed : s.undisturbed) :
    exec (.writeByte v) s = .next (if s.transmissionOpen then
      (s.storeByte .tx v).2.ended [] (boolResult (s.storeByte .tx v).1) else s.ended [] 0) := by
  let s0 := s.start (firstCtx (.writeByte v))
  have tested : act s0 = if s.transmissionOpen then s0.goto .w1 else s0.returnHost 0 := rfl
  cases opened : s.transmissionOpen with
  | false =>
    rw [opened] at tested
    rw [exec_of_reaches rfl undisturbed (Reaches.silent rfl undisturbed tested rfl) rfl rfl]
    exact congrArg _ (State.returnHost_eq_ended (s := s0) rfl 0)
  | true =>
    rw [opened] at tested
    have stored : Reaches (s0.goto .w1) (actW1 (s0.goto .w1)) := Reaches.silent rfl undisturbed rfl rfl
    rw [exec_of_reaches rfl undisturbed ((Reaches.silent (s := s0) rfl undisturbed tested rfl).trans stored) rfl rfl]
    exact congrArg _ (State.returnHost_eq_ended (s := ((s0.goto .w1).storeByte .tx v).2) rfl _)

/-- Settles O21: the status flag and the room in `tx` decide. -/
theorem writeByteStores : Obligations.WriteByteStores := by
  intro v s undisturbed
  rw [exec_writeByte v undisturbed]
  refine ⟨fun rejected => ?_, fun opened room => ⟨(s.tx.store s.cfg.nCap v).2, by simp [room], ?_⟩⟩
  · cases opened : s.transmissionOpen with
    | false => rfl
    | true =>
      have full : (s.storeByte .tx v).1 = false := by simpa [opened] using rejected
      rw [State.storeByte_rejected full, full]
      rfl
  · have accepted : (s.storeByte .tx v).1 = true := by simp [room]
    rw [if_pos opened, accepted]
    rfl

/-- With no transmission open no byte is stored (R127). -/
theorem writeBytesNow_closed {s : State} (closed : s.transmissionOpen = false) (l : List Byte) (k : Word) :
    writeBytesNow l k s = (s, k) := by
  cases l <;> simp [writeBytesNow, closed]

/-- The bytes that an open `tx` has room for are stored in order, and the others are dropped (R101, R127). -/
theorem writeBytesNow_takes (l : List Byte) (room : Nat) (k : Word) (s : State) (opened : s.transmissionOpen = true)
    (left : s.tx.c.length + room = s.cfg.nCap) :
    ∃ r : Ring, r.c = s.tx.c ++ l.take room ∧ (min l.length room = 0 → r = s.tx)
      ∧ writeBytesNow l k s = ({ s with tx := r }, k + BitVec.ofNat 32 (min l.length room)) := by
  induction l generalizing room k s with
  | nil => exact ⟨s.tx, by simp, fun _ => rfl, by simp [writeBytesNow]⟩
  | cons v rest ih =>
    cases room with
    | zero =>
      have full : s.tx.c.length = s.cfg.nCap := left
      exact ⟨s.tx, by simp, fun _ => rfl, by rw [writeBytesNow, if_pos opened, if_neg (by simp [full])]; simp⟩
    | succ room =>
      have other : s.tx.c.length ≠ s.cfg.nCap := by omega
      have accepted : (s.storeByte .tx v).1 = true := by simp [other]
      have held : (s.storeByte .tx v).2.tx.c = s.tx.c ++ [v] := by simp [other]
      obtain ⟨r, bytes, -, stored⟩ := ih room (k + 1) (s.storeByte .tx v).2 opened (by
        rw [held, List.length_append, List.length_singleton, State.storeByte_cfg]
        omega)
      refine ⟨r, by rw [bytes, held, List.take_succ_cons, List.append_assoc, List.singleton_append],
        fun none => by simp at none, ?_⟩
      have total : k + 1 + BitVec.ofNat 32 (min rest.length room)
          = k + BitVec.ofNat 32 (min (v :: rest).length (room + 1)) := by
        rw [BitVec.add_assoc, List.length_cons, Nat.add_min_add_right, Nat.add_comm, BitVec.ofNat_add]
        rfl
      rw [writeBytesNow, if_pos opened, if_pos accepted, stored, total]
      rfl

/-- With no transmission open WRITE_BYTES stores nothing and returns 0 (R127). -/
theorem exec_writeBytes_closed {s : State} {count : Word} {payload : List Byte} (undisturbed : s.undisturbed)
    (length : payload.length = count.toNat) (closed : s.transmissionOpen = false) :
    exec (.writeBytes count payload) s = .next (s.ended [] 0) := by
  rw [exec_writeBytes undisturbed length, writeBytesNow_closed (s := { s with stop := none }) closed]
  exact congrArg _ (State.returnHost_eq_ended rfl 0)

/-- Settles O22: a closed transmission takes no byte, an open one those that fit. -/
theorem writeBytesStoresWhatFits : Obligations.WriteBytesStoresWhatFits := by
  intro count payload s undisturbed length within
  cases opened : s.transmissionOpen with
  | false => exact ⟨0, s.tx, by simp, by simp, fun _ => rfl, exec_writeBytes_closed undisturbed length opened⟩
  | true =>
    obtain ⟨r, bytes, kept, stored⟩ := writeBytesNow_takes payload (s.cfg.nCap - s.tx.c.length) 0
      { s with stop := none } opened (Nat.add_sub_cancel' within)
    refine ⟨_, r, rfl, ?_, kept, ?_⟩
    · rw [bytes, List.take_eq_take_min, Nat.min_comm]
      rfl
    · rw [exec_writeBytes undisturbed length, stored, zero_add]
      exact congrArg _ (State.returnHost_eq_ended rfl _)

/-! ## Reading `rx` -/

theorem Ring.read_cons {r : Ring} {v : Byte} {rest : List Byte} (held : r.c = v :: rest) :
    r.read = (some v, { r with c := rest }) := by
  simp [Ring.read, held]

theorem exec_read (s : State) :
    exec .read s = .next ({ s with rx := s.rx.read.2 }.deliver .host (byteResult s.rx.read.1)) := rfl

theorem exec_peek (s : State) : exec .peek s = .next (s.deliver .host (byteResult s.rx.c.head?)) := rfl

/-- Settles O43: the length fits the result word, and an empty and a non-empty `rx` are read apart. -/
theorem readingRx : Obligations.ReadingRx := by
  intro s legal within
  refine ⟨⟨_, Ring.available_toNat legal within, rfl⟩, fun empty => ⟨?_, ?_⟩, fun v rest held => ⟨?_, ?_⟩⟩
  · rw [exec_read, Ring.read_empty empty]
    rfl
  · rw [exec_peek, empty]
    rfl
  · rw [exec_read, Ring.read_cons held]
    rfl
  · rw [exec_peek, held]
    rfl

end Sys2Proof.Machine

/-! THEOREMS. END_TRANSMISSION undisturbed (R128 to R135): what the calls of `sendWhole` show of the stop, the timeout and the
ownership. The calls up to the stop rule are the start and those of the loop, the rest are `State.closingCalls`. -/

namespace Sys2Proof.Machine

/-- The capacity is below `2 ^ 32`, so `Available(tx)` is exact (R9, R104). -/
theorem State.tx_short {s : State} (legal : s.cfg.wf) (within : s.tx.c.length ≤ s.cfg.nCap) : s.tx.c.length < 2 ^ 32 := by
  have capacity := legal.2
  omega

/-- Settles O24: the length of `tx` is below `2 ^ 32`. -/
theorem endTransmissionWhole : Obligations.EndTransmissionWhole :=
  fun stop _ undisturbed calls legal within =>
    exec_endTransmission stop undisturbed calls fun _ => State.tx_short legal within

/-- `sendWhole` where the start is not acknowledged (R135). -/
theorem sendWhole_unstarted {s : State} (stop : Bool) (failed : (s.answer 0).flag = false) :
    sendWhole stop s =
      { calls := [.startTransaction s.targetAddress .write false, .issueBusStop, .hasTimedOut (s.answer 1).flag]
          ++ if (s.answer 1).flag then busResetCalls s.activeClockRate else []
        result := if (s.answer 1).flag then 4 else 2
        used := 2
        bytes := s.tx.c
        closes := true } := by
  simp [sendWhole, failed, callIf]

/-- Settles O25: `sendWhole` has no loop where the start is not acknowledged. -/
theorem addressNackSendsNothing : Obligations.AddressNackSendsNothing := by
  intro stop s undisturbed calls failed
  have whole := sendWhole_unstarted stop failed
  refine ⟨_, _, exec_endTransmission stop undisturbed calls (by simp [failed]), rfl, ?_, ?_, ?_, rfl, ?_⟩
  · rw [whole]
    rfl
  · rw [whole]
    cases (s.answer 1).flag <;> rfl
  · rw [whole]
  · simp [State.ended, State.lastResult, whole]

/-! ## The calls before the stop rule and after it -/

@[simp] theorem sampledOwnership_append (a b : List Call) :
    sampledOwnership (a ++ b) = (sampledOwnership a || sampledOwnership b) :=
  List.any_append

/-- What shows that ownership was lost shows that it was sampled. -/
theorem sampledOwnership_of_lost {calls : List Call} (h : lostOwnership calls = true) : sampledOwnership calls = true := by
  obtain ⟨c, mem, lost⟩ := List.any_eq_true.mp h
  refine List.any_eq_true.mpr ⟨c, mem, ?_⟩
  cases c with
  | hasBusOwnership answer => rfl
  | _ => cases lost

/-- What the loop `E2` shows of ownership (R129, R133). -/
theorem sendLoop_owns (a : Nat → Draw) (l : List Byte) (i : Nat) :
    lostOwnership (sendLoop a l i).calls = (sendLoop a l i).ownerLost
      ∧ (sampledOwnership (sendLoop a l i).calls = false → l = [])
      ∧ ((sendLoop a l i).ownerLost = true → (sendLoop a l i).failed = false ∧ (sendLoop a l i).bytes ≠ []) := by
  induction l generalizing i with
  | nil => exact ⟨rfl, fun _ => rfl, by simp [sendLoop]⟩
  | cons b rest ih =>
    unfold sendLoop
    split
    · split
      · obtain ⟨lost, _, kept⟩ := ih (i + 2)
        exact ⟨lost, by simp [sampledOwnership], kept⟩
      · exact ⟨rfl, by simp [sampledOwnership], by simp⟩
    · exact ⟨rfl, by simp [sampledOwnership], by simp⟩

/-- The loop `E2` asks for nothing but ownership and acknowledgements (R128). -/
theorem sendLoop_requests {a : Nat → Draw} {l : List Byte} {i : Nat} {c : Call} (h : c ∈ (sendLoop a l i).calls) :
    c.request = .hasBusOwnership ∨ ∃ v, c.request = .sendByte v := by
  induction l generalizing i with
  | nil => simp [sendLoop] at h
  | cons b rest ih =>
    have sent {answer : Bool} : (Call.sendByte b answer).request = .sendByte b := rfl
    unfold sendLoop at h
    split at h
    · split at h
      · rcases List.mem_cons.mp h with rfl | h
        · exact .inl rfl
        · rcases List.mem_cons.mp h with rfl | h
          · exact .inr ⟨b, rfl⟩
          · exact ih h
      · rcases List.mem_pair.mp h with rfl | rfl
        · exact .inl rfl
        · exact .inr ⟨b, rfl⟩
    · rw [List.mem_singleton.mp h]
      exact .inl rfl

/-- The calls of END_TRANSMISSION before the stop rule (R128, R135). -/
def sendingCalls (s : State) : List Call :=
  .startTransaction s.targetAddress .write (s.answer 0).flag :: (sendBytesRun s).calls

/-- The calls before the stop rule are starts, ownership queries and bytes. -/
theorem sendingCalls_requests {s : State} {c : Call} (h : c ∈ sendingCalls s) :
    c.request ≠ .issueBusStop ∧ c.request ≠ .hasTimedOut ∧ c.request.isConfiguration = false := by
  rcases List.mem_cons.mp h with rfl | looped
  · exact ⟨nofun, nofun, rfl⟩
  · unfold sendBytesRun at looped
    split at looped
    · rcases sendLoop_requests looped with e | ⟨v, e⟩ <;> rw [e] <;> exact ⟨nofun, nofun, rfl⟩
    · cases looped

theorem configurationCalls_sendingCalls (s : State) : configurationCalls (sendingCalls s) = [] :=
  List.filter_eq_nil_iff.mpr fun c mem => by simp [(sendingCalls_requests mem).2.2]

/-- The bytes phase with no sample of ownership ended after its first answer (R128, R135). -/
theorem sendBytesRun_owns (s : State) :
    lostOwnership (sendingCalls s) = (sendBytesRun s).ownerLost
      ∧ sampledOwnership (sendingCalls s) = sampledOwnership (sendBytesRun s).calls
      ∧ (sampledOwnership (sendBytesRun s).calls = false → (sendBytesRun s).used = 1)
      ∧ ((sendBytesRun s).ownerLost = true →
        (s.answer 0).flag = true ∧ (sendBytesRun s).failed = false ∧ (sendBytesRun s).bytes ≠ []) := by
  refine ⟨?_, rfl, ?_⟩
  · change lostOwnership (sendBytesRun s).calls = _
    unfold sendBytesRun
    split
    · exact (sendLoop_owns ..).1
    · rfl
  · unfold sendBytesRun
    split
    · obtain ⟨_, unsampled, kept⟩ := sendLoop_owns s.answer s.tx.c 1
      exact ⟨fun h => by rw [unsampled h, sendLoop], fun h => ⟨‹_›, kept h⟩⟩
    · exact ⟨fun _ => rfl, nofun⟩

/-- The state in which END_TRANSMISSION comes to its stop rule, as far as the calls after it read it. -/
def sendStopState (stop : Bool) (s : State) : State := atSendStop (sendStopCtx stop s) s

/-- The answer to the timeout query of END_TRANSMISSION (R131). -/
def sendTimedOut (stop : Bool) (s : State) : Bool :=
  ((sendStopState stop s).answer (sendStopState stop s).drawsOwner.toNat).flag

/-- Whether END_TRANSMISSION issues the stop (R130). -/
def sendStops (stop : Bool) (s : State) : Bool :=
  sendError s != .none || stop && (sendStopState stop s).holdsBus

theorem sendWhole_calls (stop : Bool) (s : State) :
    (sendWhole stop s).calls = sendingCalls s ++ (callIf (sendStops stop s) .issueBusStop
      ++ .hasTimedOut (sendTimedOut stop s)
        :: if sendTimedOut stop s then busResetCalls s.activeClockRate else []) := by
  rw [sendWhole_eq (stop := stop) (c := sendStopCtx stop s) rfl rfl rfl rfl]
  rfl

theorem sendWhole_closingResult (stop : Bool) (s : State) :
    (sendWhole stop s).result = if sendTimedOut stop s then 4 else codeResult (seqErrorCode (sendError s)) := by
  rw [sendWhole_eq (stop := stop) (c := sendStopCtx stop s) rfl rfl rfl rfl]
  rfl

/-- The calls from the stop rule on ask for no ownership. -/
theorem sendWhole_owns (stop : Bool) (s : State) :
    lostOwnership (sendWhole stop s).calls = (sendBytesRun s).ownerLost
      ∧ sampledOwnership (sendWhole stop s).calls = sampledOwnership (sendBytesRun s).calls := by
  obtain ⟨lost, sampled, _⟩ := sendBytesRun_owns s
  rw [sendWhole_calls, lostOwnership_append, sampledOwnership_append, lost, sampled]
  cases sendStops stop s <;> cases sendTimedOut stop s <;>
    exact ⟨Bool.or_false _, Bool.or_false _⟩

/-- The calls from the stop rule on show no error but the timeout. -/
theorem sendWhole_errors (stop : Bool) (s : State) :
    hasAddressNack (sendWhole stop s).calls = !(s.answer 0).flag
      ∧ hasDataNack (sendWhole stop s).calls = (sendBytesRun s).failed
      ∧ sawTimeout (sendWhole stop s).calls = sendTimedOut stop s := by
  obtain ⟨_, dataNack, addressNack, early⟩ := sendBytesRun_shows s _ rfl
  rw [sendWhole_calls, hasAddressNack_append, hasDataNack_append, sawTimeout_append, sendingCalls, dataNack, addressNack,
    early]
  cases sendStops stop s <;> cases sendTimedOut stop s <;>
    exact ⟨Bool.or_false _, Bool.or_false _, Bool.false_or _⟩

/-- The ownership of the stop rule in the terms of the calls (R129): where nothing was sampled, the draw is the answer after
the start's. -/
theorem holdsBus_eq_ownerAfter {stop : Bool} {s : State} (requested : stop = true) (err : sendError s = .none) :
    (sendStopState stop s).holdsBus = ownerAfter s (sendWhole stop s).calls 1 := by
  obtain ⟨lost, sampled⟩ := sendWhole_owns stop s
  have drawn : (sendStopState stop s).answer 0 = s.answer (sendBytesRun s).used := atSendStop_answer ..
  have read : (sendStopState stop s).holdsBus = if sampledOwnership (sendBytesRun s).calls then !(sendBytesRun s).ownerLost
      else !(!sampledOwnership (sendBytesRun s).calls && s.cfg.ownerUnsampled == .draw && stop && sendError s == .none)
        || (s.answer (sendBytesRun s).used).flag := by
    rw [← drawn]
    rfl
  rw [read, ownerAfter, lost, sampled, err, requested]
  cases unsampled : sampledOwnership (sendBytesRun s).calls with
  | true => rfl
  | false =>
    rw [(sendBytesRun_owns s).2.2.1 unsampled]
    cases s.cfg.ownerUnsampled <;> rfl

/-- The stop rule in the terms of the calls (R130). -/
theorem sendStops_eq (stop : Bool) (s : State) :
    sendStops stop s = (hasAddressNack (sendWhole stop s).calls || hasDataNack (sendWhole stop s).calls
      || stop && ownerAfter s (sendWhole stop s).calls 1) := by
  obtain ⟨addressNack, dataNack, _⟩ := sendWhole_errors stop s
  have error : (sendError s != .none) = (!(s.answer 0).flag || (sendBytesRun s).failed) := by
    unfold sendError
    cases (s.answer 0).flag <;> cases (sendBytesRun s).failed <;> rfl
  rw [addressNack, dataNack, ← error, sendStops]
  cases stop with
  | false => rfl
  | true =>
    by_cases err : sendError s = .none
    · rw [holdsBus_eq_ownerAfter rfl err]
    · rw [bne_iff_ne.mpr err]
      rfl

/-- Settles O26: after the calls before the stop rule come the stop, where it is issued, and the timeout query. -/
theorem sendStopRule : Obligations.SendStopRule := by
  intro stop s undisturbed calls legal within
  have run := exec_endTransmission stop undisturbed calls fun _ => State.tx_short legal within
  refine ⟨_, (sendWhole stop s).calls, sendingCalls s, sendTimedOut stop s,
    if sendTimedOut stop s then busResetCalls s.activeClockRate else [], run, rfl, ?_, fun mem => ?_, ?_, ?_⟩
  · rw [← sendStops_eq, List.append_assoc]
    exact sendWhole_calls stop s
  · exact (sendingCalls_requests mem).1 rfl
  · cases sendTimedOut stop s <;> simp [busResetCalls]
  · cases sendTimedOut stop s <;> rfl

/-- Settles O27: the calls before the timeout query are those before the stop rule and the stop; no other result is 4. -/
theorem sendTimeout : Obligations.SendTimeout := by
  intro stop s undisturbed calls legal within
  have run := exec_endTransmission stop undisturbed calls fun _ => State.tx_short legal within
  refine ⟨_, (sendWhole stop s).calls, sendingCalls s ++ callIf (sendStops stop s) .issueBusStop, sendTimedOut stop s, run,
    rfl, ?_, fun a mem => ?_, ?_, rfl, rfl, ?_⟩
  · rw [sendWhole_calls, List.append_assoc]
  · rcases List.mem_append.mp mem with sent | stopped
    · exact (sendingCalls_requests sent).2.1 rfl
    · cases sendStops stop s <;> simp [callIf] at stopped
  · rw [configurationCalls_append, configurationCalls_sendingCalls]
    cases sendStops stop s <;> rfl
  · have last : ∀ code : Word, some (⟨.host, code⟩ : Result) = some ⟨.host, 4⟩ ↔ code = 4 := by simp
    simp only [State.ended, State.lastResult, List.getLast?_append, List.getLast?_singleton, Option.some_or, last,
      sendWhole_closingResult]
    cases sendTimedOut stop s <;> cases sendError s <;> decide

/-- Settles O31: where ownership is lost the loop records no error, so the lost sample decides against the stop. -/
theorem ownershipLossUnreported : Obligations.OwnershipLossUnreported := by
  intro stop s undisturbed calls legal within
  have run := exec_endTransmission stop undisturbed calls fun _ => State.tx_short legal within
  refine ⟨_, (sendWhole stop s).calls, run, rfl, fun shown => ?_⟩
  have lost : (sendBytesRun s).ownerLost = true := (sendWhole_owns stop s).1 ▸ shown
  obtain ⟨started, acknowledged, left⟩ := (sendBytesRun_owns s).2.2.2 lost
  obtain ⟨addressNack, dataNack, _⟩ := sendWhole_errors stop s
  have noAddressNack : hasAddressNack (sendWhole stop s).calls = false := by rw [addressNack, started]; rfl
  have noDataNack : hasDataNack (sendWhole stop s).calls = false := dataNack.trans acknowledged
  have released : ownerAfter s (sendWhole stop s).calls 1 = false := by
    simp [ownerAfter, sampledOwnership_of_lost shown, shown]
  have unstopped : sendStops stop s = false := by simp [sendStops_eq, noAddressNack, noDataNack, released]
  obtain ⟨unsent, split, _, kept, _⟩ := sendWhole_sentInOrder stop s
  rw [noDataNack] at kept
  refine ⟨fun mem => ?_, noDataNack, ?_, left, ?_⟩
  · rw [sendWhole_calls, unstopped] at mem
    rcases List.mem_append.mp mem with sent | ended
    · exact (sendingCalls_requests sent).1 rfl
    · cases late : sendTimedOut stop s <;> simp [late, callIf, busResetCalls] at ended
  · change (sendWhole stop s).bytes = _
    rw [kept]
    conv_rhs => rw [split]
    simp
  · simp [State.ended, State.lastResult, sendWhole_result, noAddressNack, noDataNack]

/-- Settles O34: END_TRANSMISSION closes the transmission. -/
theorem writesRejectedAfterEnd : Obligations.WritesRejectedAfterEnd := by
  intro stop s undisturbed calls legal within
  obtain ⟨t, run, closed, quiet⟩ :
      ∃ t, exec (.endTransmission stop) s = .next t ∧ t.transmissionOpen = false ∧ t.undisturbed :=
    ⟨_, exec_endTransmission stop undisturbed calls fun _ => State.tx_short legal within, rfl, undisturbed⟩
  refine ⟨t, run, fun v => ?_, fun count payload length => exec_writeBytes_closed quiet length closed⟩
  rw [exec_writeByte v quiet, closed]
  rfl

end Sys2Proof.Machine

/-! THEOREMS. END_TRANSMISSION with SERVICE steps between its actions: the codes it can return (R132, R231, R282), and a byte
that SERVICE has taken away (R134). -/

namespace Sys2Proof.Machine

/-! ## The result under any interleaving -/

/-- The labels of END_TRANSMISSION and of the bus reset (R124, R128). -/
def Label.ofSending : Label → Bool
  | .e0 | .e1 | .e2 | .e2Own | .e2Read | .e2Send | .e2Clear | .e4 | .e5 | .e6 | .z0 | .z1 | .z2 | .zClose => true
  | _ => false

/-- END_TRANSMISSION is running. -/
def Ctx.sending (c : Ctx) : Prop := c.op = some .endTransmission ∧ c.seq.ofSending = true

/-- The codes that END_TRANSMISSION returns (R132). -/
def sendResults : List Word := [0, 2, 3, 4]

theorem seqErrorCode_mem (e : SeqError) : codeResult (seqErrorCode e) ∈ sendResults := by cases e <;> decide

theorem timeoutResult_mem : timeoutResult (some .endTransmission) ∈ sendResults := by decide

/-- END_TRANSMISSION has returned with one of its codes. -/
def State.sentWith (s : State) : Prop := s.ctx = Ctx.idle ∧ ∃ code ∈ sendResults, s.lastResult = some ⟨.host, code⟩

theorem State.returnHost_sentWith {s : State} {code : Word} (h : code ∈ sendResults) : (s.returnHost code).sentWith :=
  ⟨rfl, code, h, by simp [lastResult]⟩

/-- An action of END_TRANSMISSION leads to another of its labels, or returns one of its codes. -/
theorem act_sending {s : State} (h : s.ctx.sending) : (act s).ctx.sending ∨ (act s).sentWith := by
  obtain ⟨op, label⟩ := h
  obtain ⟨d, hd⟩ := s.ownerOk_ctx
  cases l : s.ctx.seq <;> rw [l] at label <;> cases label <;> simp only [act, l]
  case e6 => exact .inr (State.returnHost_sentWith (seqErrorCode_mem _))
  case zClose => exact .inr (State.returnHost_sentWith (op ▸ timeoutResult_mem))
  all_goals
    left
    simp only [actZ0, actZ1, actZ2, actE0, actE1, actE2, actE2Own, actE2Read, actE2Send, actE2Clear, actE4, actE5]
    repeat' split
    all_goals simp [Ctx.sending, Label.ofSending, op, hd]

/-- A run of END_TRANSMISSION in a well-behaved state is still at its labels, or has returned one of its codes. -/
theorem runCommand_sending {s : State} (behaved : s.wellBehaved = true) (sending : s.ctx.sending) :
    (runCommand s).ctx.sending ∨ (runCommand s).sentWith := by
  refine (run_induction_running (fun t => t.wellBehaved = true ∧ (t.ctx.sending ∨ t.sentWith))
    (fun u running ⟨behaved, where_⟩ => ?_) _ s ⟨behaved, .inl sending⟩).2
  have slot := State.wellBehaved_serviceSlot behaved
  obtain ⟨stop, calls, _⟩ := (State.wellBehaved_iff _).mp slot
  rw [advance_returns stop calls]
  refine ⟨State.wellBehaved_act slot, act_sending ?_⟩
  rw [serviceSlot_ctx]
  refine where_.resolve_right fun ⟨idle, _⟩ => (u.running_iff.mp running).1 ?_
  rw [idle, Ctx.idle]

/-- Settles O28: the command returns (O60), and what its run returns is one of its codes. -/
theorem sendCodes : Obligations.SendCodes := by
  intro stop s inv behaved
  let i : Instr := .endTransmission stop
  have started : (s.start (firstCtx i)).wellBehaved = true := State.wellBehaved_congr behaved inv.stop.symm rfl rfl
  obtain ⟨t, next, idle, _⟩ := execFrom_returns inv.rings started (firstCtx_onCourse i) (firstCtx_hung i)
    (firstCtx_seq rfl)
  obtain rfl := outcome_next next
  obtain ⟨_, label⟩ | ⟨_, code, mem, last⟩ := runCommand_sending started ⟨rfl, rfl⟩
  · rw [idle] at label
    cases label
  · exact ⟨_, code, next, last, mem⟩

/-! ## A byte taken away by SERVICE -/

/-- A command in the middle on course that reaches a state at rest ends there, where no SERVICE step falls in. -/
theorem step_of_reaches {s t : State} (busy : s.ctx.seq ≠ .idle) (free : s.ctx.hung = false) (course : OnCourse s.ctx)
    (undisturbed : s.undisturbed) (h : Reaches { s with stop := none } t) (idle : t.ctx.seq = .idle)
    (stop : t.stop = none) : step s = .next t := by
  let u : State := { s with stop := none }
  have fuel : rank u ≤ commandFuel u := by
    have := rank_le u
    unfold commandFuel
    omega
  have ended : (runCommand u).running = false := run_ends_quiet _ u course undisturbed fuel
  obtain ⟨n, reached⟩ := h
  have same : runCommand u = t := by
    rw [← reached]
    exact run_over_unique ended (by rw [reached]; simp [State.running, idle])
  have goesOn : step s = outcome u (runCommand u) := by simp [step, busy, free, u]
  rw [goesOn, outcome_runCommand, same, stop]

/-- The stop rule where ownership was sampled and is held and no error was recorded (R130). -/
theorem reaches_sendStop_owner {s : State} (q : s.Quiet) (label : s.ctx.seq = .e4) (err : s.ctx.err = .none)
    (sampled : s.ctx.sampled = true) (held : s.ctx.ownerLost = false) :
    Reaches s (s.did 0 (callIf s.ctx.stop .issueBusStop) { s.ctx with seq := .e5 }) := by
  refine Reaches.act q (by simp [label]) ?_
  have decided : act s = if s.ctx.stop then (s.call .issueBusStop).goto .e5 else s.goto .e5 := by
    simp [act, label, actE4, err, State.ownerOk_sampled s sampled, held]
  rw [decided]
  split
  · rw [callIf, if_pos ‹_›]
    exact q.call_goto _ _
  · rw [callIf, if_neg ‹_›, State.did, List.append_nil]
    rfl

/-- Settles O32: the read of the empty `tx` leads to the stop rule with no error. -/
theorem concurrentDrain : Obligations.ConcurrentDrain := by
  intro s undisturbed calls op label free err sampled held empty
  let u : State := { s with stop := none }
  have q : u.Quiet := ⟨undisturbed, calls, rfl, free⟩
  let c : Ctx := { s.ctx with b := none, seq := .e4 }
  have drained : Reaches u (u.withCtx c) := by
    refine Reaches.act q (by simp [u, label]) ?_
    simp only [act, u, label, actE2Read, State.readByte, State.buf, Ring.read_empty empty]
    rfl
  let v := State.did 0 (callIf s.ctx.stop .issueBusStop) { c with seq := .e5 } (u.withCtx c)
  have stopped : Reaches (u.withCtx c) v := reaches_sendStop_owner (drained.quiet q) rfl err sampled held
  have ended := reaches_sendEnd (stopped.quiet (drained.quiet q)) rfl op
  have success : codeResult (seqErrorCode v.ctx.err) = 0 := congrArg (codeResult ∘ seqErrorCode) err
  rw [success] at ended
  have next := step_of_reaches (by simp [label]) free (by simp [OnCourse, label]) undisturbed
    (drained.trans (stopped.trans ended)) rfl rfl
  exact ⟨_, (v.answer 0).flag, next, rfl, rfl, rfl, by simp [State.lastResult]⟩

end Sys2Proof.Machine

/-! SUPPORT. REQUEST_FROM where no SERVICE step falls in and every call returns: from the start through the loop `F4`, `F5`, the
NACK, the timeout query, the stop rule and the bus reset to the return (R140 to R146), the labels do what `receiveWhole` says
of the answers. -/

namespace Sys2Proof.Machine

@[simp] theorem State.did_asked (n m : Nat) (calls : List Call) (c : Ctx) (s : State) :
    (s.did n calls c).asked m = s.did (n + m) calls c := by
  simp [did, asked, Nat.add_assoc]

/-! ## The start -/

/-- Settles O35: the label `F0` returns at once. -/
theorem requestZero : Obligations.RequestZero := by
  intro address stop s undisturbed
  let s0 := s.start (firstCtx (.requestFrom address 0 stop))
  have returned : Reaches s0 (s0.returnHost 0) := Reaches.silent rfl undisturbed rfl rfl
  rw [exec_of_reaches rfl undisturbed returned rfl rfl, State.returnHost_eq_ended rfl, State.start_ended]

/-- The state in which REQUEST_FROM has cleared `rx` (label `F1`). -/
def clearedRx (s : State) : State := { s with rx := s.rx.clear, stop := none }

/-- REQUEST_FROM up to the answer to its start (R140). -/
theorem reaches_readStart {s : State} (address : Byte) {quantity : Word} (stop : Bool) (undisturbed : s.undisturbed)
    (calls : s.callsReturn) (some : quantity ≠ 0) :
    Reaches (s.start (firstCtx (.requestFrom address quantity stop)))
      (State.did 1 [.startTransaction address .read (s.answer 0).flag]
        { firstCtx (.requestFrom address quantity stop) with
          ok := (s.answer 0).flag, seq := if (s.answer 0).flag then .f3 else .f10 } (clearedRx s)) := by
  let s0 := s.start (firstCtx (.requestFrom address quantity stop))
  let s2 := (clearedRx s).withCtx { firstCtx (.requestFrom address quantity stop) with seq := .f2 }
  have q0 : s0.Quiet := State.start_quiet (.requestFrom address quantity stop) undisturbed calls
  have counted : Reaches s0 (s0.goto .f1) := Reaches.act q0 (firstCtx_seq rfl) (if_neg some)
  have cleared : Reaches (s0.goto .f1) s2 := Reaches.act (counted.quiet q0) (by simp) rfl
  have q2 := cleared.quiet (counted.quiet q0)
  refine (counted.trans cleared).trans (Reaches.act q2 (by simp [s2, State.withCtx]) ?_)
  change actF2 s2 = _
  simp only [actF2, q2.askFlag_eq]
  rfl

/-- `BusReset` of REQUEST_FROM and its return (R124, R144, R145). -/
theorem reaches_readTimeout {s : State} (q : s.Quiet) (label : s.ctx.seq = .z0) (op : s.ctx.op = some .requestFrom) :
    Reaches s { s.ended (busResetCalls s.activeClockRate) 0 with transmissionOpen := false } := by
  have result : timeoutResult s.ctx.op = 0 := by rw [op]; rfl
  have reset := reaches_busReset q label
  rw [result] at reset
  simpa [State.ended, State.did, q.stop] using reset

/-- The end of REQUEST_FROM where the start was not acknowledged (R145). -/
theorem reaches_readFailed {s : State} (q : s.Quiet) (label : s.ctx.seq = .f10) (op : s.ctx.op = some .requestFrom) :
    Reaches s { (s.asked 1).ended (.hasTimedOut (s.answer 0).flag
        :: if (s.answer 0).flag then busResetCalls s.activeClockRate else []) 0 with
      transmissionOpen := s.transmissionOpen && !(s.answer 0).flag } := by
  have asked : Reaches s (actF10 s) := Reaches.act q (by simp [label]) (by simp only [act, label])
  have q1 := asked.quiet q
  cases late : (s.answer 0).flag with
  | false =>
    simp only [actF10, q.askFlag_eq, late] at asked
    simpa [State.returnHost, State.deliver, State.ended, State.asked, q.stop] using asked
  | true =>
    simp only [actF10, q.askFlag_eq, late] at asked q1
    have reset := asked.trans (reaches_readTimeout q1 rfl op)
    simpa [State.ended, State.asked] using reset

/-- Where the start is not acknowledged, REQUEST_FROM asks for the timeout and returns 0 (R145). -/
theorem exec_requestFrom_unstarted {s : State} (address : Byte) {quantity : Word} (stop : Bool) (undisturbed : s.undisturbed)
    (calls : s.callsReturn) (some : quantity ≠ 0) (failed : (s.answer 0).flag = false) :
    exec (.requestFrom address quantity stop) s
      = .next { (s.asked 2).ended (.startTransaction address .read false :: .hasTimedOut (s.answer 1).flag
            :: if (s.answer 1).flag then busResetCalls s.activeClockRate else []) 0 with
          rx := s.rx.clear
          transmissionOpen := s.transmissionOpen && !(s.answer 1).flag } := by
  have start := reaches_readStart address stop undisturbed calls some
  rw [failed] at start
  have ended := reaches_readFailed (start.quiet (State.start_quiet _ undisturbed calls)) rfl rfl
  rw [exec_of_reaches rfl undisturbed (start.trans ended) rfl rfl]
  simp only [State.did_answer, State.did_asked, State.did_ended]
  rfl

/-- Settles O37: the two answers to the timeout query. -/
theorem readStartFailure : Obligations.ReadStartFailure := by
  intro address quantity stop s undisturbed calls some failed
  have run := exec_requestFrom_unstarted address stop undisturbed calls some failed
  refine ⟨fun onTime => ?_, fun late => ?_⟩
  · rw [run, onTime, Bool.not_false, Bool.and_true]
    rfl
  · rw [run, late, Bool.not_true, Bool.and_false]
    rfl

/-! ## The bytes -/

/-- The loop `F4`, `F5` of REQUEST_FROM, behind its first byte (R141). -/
def receiveRun (quantity : Word) (s : State) : LoopRun := receiveLoop s.answer (quantity.toNat - 1) 2

/-- The calls of REQUEST_FROM before the NACK, where the start is acknowledged (R140). -/
def receivingCalls (address : Byte) (quantity : Word) (s : State) : List Call :=
  .startTransaction address .read true :: .receiveByte (s.answer 1).byte :: (receiveRun quantity s).calls

/-- The bytes that REQUEST_FROM receives (R140, R146). -/
def receivingBytes (quantity : Word) (s : State) : List Byte := (s.answer 1).byte :: (receiveRun quantity s).bytes

/-- The state in which REQUEST_FROM comes to the NACK with the context `c`. -/
def atNack (address : Byte) (quantity : Word) (c : Ctx) (s : State) : State :=
  State.did (receiveRun quantity s).used (receivingCalls address quantity s) c
    { s with rx := s.rx.clear.storeAll s.cfg.nCap (receivingBytes quantity s), stop := none }

/-- The locals that REQUEST_FROM reads from the NACK on (R129, R142, R143). -/
structure NackLocals (quantity : Word) (stop : Bool) (s : State) (c : Ctx) : Prop where
  stops : c.stop = stop
  early : c.early = ((receiveRun quantity s).ownerLost || (receiveRun quantity s).failed)
  lost : c.ownerLost = (receiveRun quantity s).ownerLost
  sampled : c.sampled = sampledOwnership (receiveRun quantity s).calls
  count : c.n = BitVec.ofNat 32 (receivingBytes quantity s).length

/-- REQUEST_FROM up to the NACK, where the start is acknowledged (R140, R141). -/
theorem reaches_receiveBytes {s : State} (address : Byte) {quantity : Word} (stop : Bool) (undisturbed : s.undisturbed)
    (calls : s.callsReturn) (some : quantity ≠ 0) (started : (s.answer 0).flag = true) :
    ∃ c : Ctx,
      Reaches (s.start (firstCtx (.requestFrom address quantity stop))) (atNack address quantity c s)
      ∧ c.seq = .f6 ∧ c.op = .some .requestFrom ∧ NackLocals quantity stop s c := by
  have start := reaches_readStart address stop undisturbed calls some
  rw [started] at start
  let s1 := State.did 1 [.startTransaction address .read true]
    { firstCtx (.requestFrom address quantity stop) with ok := true, seq := .f3 } (clearedRx s)
  have q1 : s1.Quiet := start.quiet (State.start_quiet _ undisturbed calls)
  have second : s1.answer 0 = s.answer 1 := State.did_answer ..
  let s2 := s1.did 1 [.receiveByte (s.answer 1).byte] { s1.ctx with b := .some (s.answer 1).byte, seq := .f3Store }
  have received : Reaches s1 s2 := by
    refine Reaches.act q1 (by simp [s1, State.did]) ?_
    change actF3 s1 = _
    simp only [actF3, q1.askByte_eq, second]
    rfl
  have q2 := received.quiet q1
  have stored : Reaches s2 (actF3Store s2) := Reaches.act q2 (by simp [s2, State.did]) rfl
  have counted : (actF3Store s2).ctx.n.toNat + (quantity.toNat - 1) = (actF3Store s2).ctx.q.toNat := by
    have : quantity.toNat ≠ 0 := fun none => some (BitVec.eq_of_toNat_eq none)
    change 1 + (quantity.toNat - 1) = quantity.toNat
    omega
  have later (j : Nat) : (actF3Store s2).answer j = s.answer (2 + j) := by
    change s2.answer j = (clearedRx s).answer (2 + j)
    simp only [s2, s1, State.did_answer, ← Nat.add_assoc]
  obtain ⟨le, c, looped, label, op, stops, early, lost, sampled, count⟩ := reaches_receiveLoop s.answer (quantity.toNat - 1) 2
    (actF3Store s2) (stored.quiet q2) later rfl counted rfl rfl
  refine ⟨c, ?_, label, op, stops, early, lost, sampled.trans (Bool.false_or _), ?_⟩
  · have whole : atNack address quantity c s = State.did ((receiveRun quantity s).used - 2) (receiveRun quantity s).calls c
        { actF3Store s2 with rx := s.rx.clear.storeAll s.cfg.nCap (receivingBytes quantity s) } := by
      change _ = State.did _ _ c (State.did 1 [.receiveByte (s.answer 1).byte] (actF3Store s2).ctx
        (State.did 1 [.startTransaction address .read true] s1.ctx
          { s with rx := s.rx.clear.storeAll s.cfg.nCap (receivingBytes quantity s), stop := none }))
      have used : 1 + 1 + ((receiveRun quantity s).used - 2) = (receiveRun quantity s).used := Nat.add_sub_cancel' le
      rw [State.did_did, State.did_did, ← Nat.add_assoc, used]
      rfl
    rw [whole]
    exact start.trans (received.trans (stored.trans looped))
  · rw [count, receivingBytes, List.length_cons, Nat.add_comm, BitVec.ofNat_add]
    rfl

/-! ## The drawn ownership -/

/-- The labels behind the first one at which `OwnerOk()` may draw: `E4` of END_TRANSMISSION, `F6` of REQUEST_FROM. -/
def Label.mayHaveDrawn : Label → Bool
  | .e5 | .e6 | .f7 | .f7Stop | .f8 | .f9 | .z0 | .z1 | .z2 | .zClose => true
  | _ => false

/-- Nothing has been drawn, unless the command is behind the first label that may draw (R129). -/
def Ctx.undrawn (c : Ctx) : Prop := c.d = none ∨ c.seq.mayHaveDrawn = true

theorem act_undrawn {s : State} (h : s.ctx.undrawn) : (act s).ctx.undrawn := by
  obtain ⟨d, hd⟩ := s.ownerOk_ctx
  obtain ⟨d', hd'⟩ := (s.call .signalStop).ownerOk_ctx
  cases hl : s.ctx.seq <;> simp only [act, hl]
  case idle => exact h
  all_goals
    simp only [Ctx.undrawn, hl, Label.mayHaveDrawn, Bool.false_eq_true, or_false, or_true] at h
    simp only [actM0, actM1, actS0, actS1, actK0, actK1, actK2, actK3, actN0, actZ0, actZ1, actZ2, actZClose, actB0, actB1,
      actB2, actW0, actW1, actX0, actX1, actX2, actX3, actE0, actE1, actE2, actE2Own, actE2Read, actE2Send, actE2Clear,
      actE4, actE5, actE6, actF0, actF1, actF2, actF3, actF3Store, actF4, actF4Own, actF5, actF5Receive, actF5Store, actF6,
      actF7, actF7Stop, actF8, actF9, actF10]
    repeat' split
    all_goals simp [Ctx.undrawn, Label.mayHaveDrawn, Ctx.idle, h, hd, hd']

/-- A command draws at no label before `E4` and `F6`. -/
theorem Reaches.undrawn {s t : State} (h : Reaches s t) (start : s.ctx.undrawn) : t.ctx.undrawn := by
  obtain ⟨n, rfl⟩ := h
  refine run_induction (fun u => u.ctx.undrawn) (fun u hu => by rwa [serviceSlot_ctx]) (fun u hu => ?_) n s start
  rcases advance_cases u with e | ⟨_, ⟨e, _⟩ | ⟨e, _⟩⟩ <;> rw [e]
  · exact act_undrawn hu
  · exact hu
  · exact hu

/-! ## From the NACK to the return -/

/-- `OwnerOk()` draws an ownership value (R129). -/
def State.drawsNow (s : State) : Bool := !s.ctx.sampled && s.cfg.ownerUnsampled == .draw && s.ctx.d.isNone

/-- What `OwnerOk()` answers (R129). -/
def State.ownerNow (s : State) : Bool :=
  if s.ctx.sampled then !s.ctx.ownerLost
  else s.cfg.ownerUnsampled == .retained || s.ctx.d.getD (s.answer 0).flag

/-- `OwnerOk()` takes an answer exactly when it draws, and keeps what it has drawn (R129). -/
theorem State.ownerOk_eq (s : State) : s.ownerOk = (s.ownerNow, (s.asked s.drawsNow.toNat).withCtx
    { s.ctx with d := if s.drawsNow then some (s.answer 0).flag else s.ctx.d }) := by
  have undrawing (h : s.drawsNow = false) : (s.asked s.drawsNow.toNat).withCtx
      { s.ctx with d := if s.drawsNow then some (s.answer 0).flag else s.ctx.d } = s := by
    rw [h]
    rfl
  cases sampled : s.ctx.sampled with
  | true => rw [undrawing (by simp [drawsNow, sampled]), ownerOk_sampled s sampled, ownerNow, if_pos sampled]
  | false =>
    cases unsampled : s.cfg.ownerUnsampled with
    | retained =>
      rw [undrawing (by simp [drawsNow, unsampled]), ownerOk_retained s sampled unsampled]
      simp [ownerNow, sampled, unsampled]
    | draw =>
      cases drawn : s.ctx.d with
      | some d =>
        rw [← drawn, undrawing (by simp [drawsNow, drawn])]
        simp [ownerOk, ownerNow, sampled, unsampled, drawn]
      | none => simp [ownerOk, ownerNow, drawsNow, sampled, unsampled, drawn, withCtx, asked, dropDraw, nextDraw_eq_answer]

/-- At the NACK the count adjustment draws an ownership value (R129, R142). -/
def State.drawsForCount (s : State) : Bool :=
  !s.ctx.sampled && s.cfg.ownerUnsampled == .draw && !s.ctx.early

/-- The answer to the timeout query after the NACK (R144). -/
def State.nackTimeout (s : State) : Bool := (s.answer s.drawsForCount.toNat).flag

/-- The stop rule after the NACK draws an ownership value (R129, R143). -/
def State.drawsForStop (s : State) : Bool :=
  !s.ctx.sampled && s.cfg.ownerUnsampled == .draw && s.ctx.early && !s.nackTimeout && s.ctx.stop

/-- The ownership that is read from the NACK on (R129). -/
def State.nackOwner (s : State) : Bool :=
  if s.ctx.sampled then !s.ctx.ownerLost
  else if s.drawsForCount then (s.answer 0).flag
  else if s.drawsForStop then (s.answer 1).flag
  else true

/-- The count after its adjustment (R142). -/
def State.nackCount (s : State) : Word := if s.ctx.early || !s.nackOwner then s.ctx.n - 1 else s.ctx.n

/-- The locals after the count adjustment (label `F6`). -/
def State.countedCtx (s : State) : Ctx :=
  { s.ctx with d := if s.drawsForCount then some (s.answer 0).flag else s.ctx.d, n := s.nackCount, seq := .f7 }

/-- The NACK and the count adjustment (R142). -/
theorem reaches_nack {s : State} (q : s.Quiet) (label : s.ctx.seq = .f6) (undrawn : s.ctx.d = none) :
    Reaches s (s.did s.drawsForCount.toNat [.signalStop] s.countedCtx) := by
  let s1 := s.did 0 [.signalStop] s.ctx
  have called : s.call .signalStop = s1 := q.call_eq _
  have done {t : State} (h : actF6 s = t) : Reaches s t := Reaches.act q (by simp [label]) (by simpa only [act, label])
  cases early : s.ctx.early with
  | true =>
    have undrawing : s.drawsForCount = false := by simp [State.drawsForCount, early]
    have counted : s.nackCount = s.ctx.n - 1 := by simp [State.nackCount, early]
    refine done ?_
    rw [State.countedCtx, undrawing, counted, actF6, called]
    exact if_pos early
  | false =>
    have answer : s1.answer 0 = s.answer 0 := State.did_answer ..
    have draws : s1.drawsNow = s.drawsForCount := by
      simp [State.drawsNow, State.drawsForCount, early, undrawn, s1, State.did]
    have owner : s1.ownerNow = s.nackOwner := by
      simp only [State.ownerNow, State.nackOwner, State.drawsForCount, State.drawsForStop, answer, early]
      change (if s.ctx.sampled then _ else s.cfg.ownerUnsampled == .retained || s.ctx.d.getD _) = _
      rw [undrawn]
      cases s.ctx.sampled <;> cases s.cfg.ownerUnsampled <;> rfl
    have counted : s.nackCount = if s.nackOwner then s.ctx.n else s.ctx.n - 1 := by
      cases owner : s.nackOwner <;> simp [State.nackCount, early, owner]
    have decided : actF6 s = if s1.ownerOk.1 then s1.ownerOk.2.goto .f7
        else { s1.ownerOk.2 with ctx := { s1.ownerOk.2.ctx with n := s1.ownerOk.2.ctx.n - 1, seq := .f7 } } := by
      rw [actF6, called]
      exact if_neg (by simp [s1, State.did, early])
    refine done ?_
    rw [decided, State.ownerOk_eq, draws, owner, answer, State.countedCtx, counted]
    cases s.nackOwner <;> rfl

/-- The timeout query after the NACK (R144). -/
theorem reaches_nackTimeout {s : State} (q : s.Quiet) (label : s.ctx.seq = .f7) :
    Reaches s (s.did 1 [.hasTimedOut (s.answer 0).flag] { s.ctx with t := (s.answer 0).flag, seq := .f7Stop }) := by
  refine Reaches.act q (by simp [label]) ?_
  simp only [act, label, actF7, q.askFlag_eq]
  rfl

/-- The stop rule of REQUEST_FROM (R143). -/
theorem reaches_receiveStop {s : State} (q : s.Quiet) (label : s.ctx.seq = .f7Stop) :
    ∃ d, Reaches s (s.did (!s.ctx.t && s.ctx.stop && s.drawsNow).toNat
      (callIf (s.ctx.t || s.ctx.stop && s.ownerNow) .issueBusStop) { s.ctx with d := d, seq := .f8 }) := by
  have done {t : State} (h : actF7Stop s = t) : Reaches s t :=
    Reaches.act q (by simp [label]) (by simpa only [act, label])
  cases late : s.ctx.t with
  | true => exact ⟨s.ctx.d, done (by rw [actF7Stop, late]; exact q.call_goto _ _)⟩
  | false =>
    cases stop : s.ctx.stop with
    | false =>
      refine ⟨s.ctx.d, done ?_⟩
      simp [actF7Stop, late, stop, State.goto, State.did, callIf]
    | true =>
      refine ⟨if s.drawsNow then some (s.answer 0).flag else s.ctx.d, done ?_⟩
      have q1 : s.ownerOk.2.Quiet := by
        rw [State.ownerOk_eq]
        exact ⟨q.schedule, q.calls, q.stop, q.free⟩
      simp only [actF7Stop, late, stop, q1.call_eq]
      rw [State.ownerOk_eq]
      cases s.ownerNow <;> simp [State.goto, State.did, callIf, State.withCtx, State.asked, late, stop]

/-- The end of REQUEST_FROM (labels `F8`, `F9`; R144). -/
theorem reaches_receiveEnd {s : State} (q : s.Quiet) (label : s.ctx.seq = .f8) (op : s.ctx.op = some .requestFrom) :
    Reaches s { s.ended (if s.ctx.t then busResetCalls s.activeClockRate else []) (if s.ctx.t then 0 else s.ctx.n) with
      transmissionOpen := s.transmissionOpen && !s.ctx.t } := by
  have tested : Reaches s (actF8 s) := Reaches.act q (by simp [label]) (by simp only [act, label])
  have q1 := tested.quiet q
  cases late : s.ctx.t with
  | false =>
    simp only [actF8, late, Bool.false_eq_true, ↓reduceIte] at tested q1
    have returned : Reaches (s.goto .f9) (actF9 (s.goto .f9)) := Reaches.act q1 (by simp) rfl
    have ended := tested.trans returned
    rw [actF9, State.returnHost_eq_ended q1.stop] at ended
    simpa [State.ended, State.goto] using ended
  | true =>
    simp only [actF8, late] at tested q1
    simpa [State.ended, State.goto] using tested.trans (reaches_readTimeout q1 rfl op)

/-- The calls of REQUEST_FROM from the NACK on (R142 to R144). -/
def State.nackCalls (s : State) : List Call :=
  [.signalStop, .hasTimedOut s.nackTimeout] ++ (callIf (s.nackTimeout || s.ctx.stop && s.nackOwner) .issueBusStop
    ++ if s.nackTimeout then busResetCalls s.activeClockRate else [])

/-- REQUEST_FROM from the NACK to its return. -/
theorem reaches_nackClosing {s : State} (q : s.Quiet) (label : s.ctx.seq = .f6) (undrawn : s.ctx.d = none)
    (op : s.ctx.op = some .requestFrom) :
    Reaches s { (s.asked (s.drawsForCount.toNat + 1 + s.drawsForStop.toNat)).ended s.nackCalls
        (if s.nackTimeout then 0 else s.nackCount) with
      transmissionOpen := s.transmissionOpen && !s.nackTimeout } := by
  let s1 := s.did s.drawsForCount.toNat [.signalStop] s.countedCtx
  let s2 := s1.did 1 [.hasTimedOut s.nackTimeout] { s.countedCtx with t := s.nackTimeout, seq := .f7Stop }
  have nack : Reaches s s1 := reaches_nack q label undrawn
  have q1 := nack.quiet q
  have answer1 : s1.answer 0 = s.answer s.drawsForCount.toNat := State.did_answer ..
  have asked : Reaches s1 s2 := by
    have asked := reaches_nackTimeout q1 rfl
    rw [answer1] at asked
    exact asked
  have q2 := asked.quiet q1
  have answer2 : s2.answer 0 = s.answer (s.drawsForCount.toNat + 1) := by simp only [s2, s1, State.did_answer]
  have draws : (!s2.ctx.t && s2.ctx.stop && s2.drawsNow) = s.drawsForStop := by
    change (!s.nackTimeout && s.ctx.stop && (!s.ctx.sampled && s.cfg.ownerUnsampled == .draw
      && (if s.drawsForCount then some (s.answer 0).flag else s.ctx.d).isNone)) = _
    unfold State.drawsForStop State.drawsForCount
    rw [undrawn]
    grind
  have owner : (s2.ctx.t || s2.ctx.stop && s2.ownerNow) = (s.nackTimeout || s.ctx.stop && s.nackOwner) := by
    unfold State.ownerNow
    rw [answer2]
    change (s.nackTimeout || s.ctx.stop && if s.ctx.sampled then !s.ctx.ownerLost
      else s.cfg.ownerUnsampled == .retained
        || (if s.drawsForCount then some (s.answer 0).flag else s.ctx.d).getD _) = _
    rw [undrawn]
    unfold State.nackOwner State.drawsForStop State.drawsForCount
    cases unsampled : s.cfg.ownerUnsampled <;> grind
  obtain ⟨d, stopped⟩ := reaches_receiveStop q2 rfl
  rw [draws, owner] at stopped
  have ended := nack.trans (asked.trans (stopped.trans (reaches_receiveEnd (stopped.quiet q2) rfl op)))
  simp only [s2, s1, State.did_ended, State.did_did] at ended
  exact ended

/-! ## REQUEST_FROM as a whole -/

@[simp] theorem atNack_answer (address : Byte) (quantity : Word) (c : Ctx) (s : State) (i : Nat) :
    (atNack address quantity c s).answer i = s.answer ((receiveRun quantity s).used + i) :=
  State.did_answer _ _ c _ i

/-- The count that is reported where one byte is not counted (R142). -/
theorem ofNat_succ_sub (length : Nat) (less : Bool) : BitVec.ofNat 32 (length + 1 - less.toNat)
    = if less then BitVec.ofNat 32 (length + 1) - 1 else BitVec.ofNat 32 (length + 1) := by
  cases less with
  | false => rfl
  | true => simp [BitVec.ofNat_add]

/-- `receiveWhole` in the terms of the state in which REQUEST_FROM comes to the NACK. -/
theorem receiveWhole_eq {address : Byte} {quantity : Word} {stop : Bool} {c : Ctx} {s : State}
    (started : (s.answer 0).flag = true) (locals : NackLocals quantity stop s c) :
    receiveWhole address quantity stop s =
      { calls := receivingCalls address quantity s ++ (atNack address quantity c s).nackCalls
        result := if (atNack address quantity c s).nackTimeout then 0 else (atNack address quantity c s).nackCount
        used := (receiveRun quantity s).used + ((atNack address quantity c s).drawsForCount.toNat + 1
          + (atNack address quantity c s).drawsForStop.toNat)
        bytes := (receivingBytes quantity s).take s.cfg.nCap
        closes := (atNack address quantity c s).nackTimeout } := by
  obtain ⟨stops, early, lost, sampled, count⟩ := locals
  let u := atNack address quantity c s
  have loop : receiveLoop s.answer (quantity.toNat - 1) 2 = receiveRun quantity s := rfl
  have before : u.drawsForCount = (!sampledOwnership (receiveRun quantity s).calls && s.cfg.ownerUnsampled == .draw
      && !((receiveRun quantity s).ownerLost || (receiveRun quantity s).failed)) := by
    rw [← sampled, ← early]
    rfl
  have timeout : u.nackTimeout = (s.answer ((receiveRun quantity s).used + u.drawsForCount.toNat)).flag := by
    rw [State.nackTimeout, atNack_answer]
  have after : u.drawsForStop = (!sampledOwnership (receiveRun quantity s).calls && s.cfg.ownerUnsampled == .draw
      && ((receiveRun quantity s).ownerLost || (receiveRun quantity s).failed) && !u.nackTimeout && stop) := by
    rw [← sampled, ← early, ← stops]
    rfl
  have owner : u.nackOwner = if sampledOwnership (receiveRun quantity s).calls then !(receiveRun quantity s).ownerLost
      else if u.drawsForCount then (s.answer (receiveRun quantity s).used).flag
      else if u.drawsForStop then (s.answer ((receiveRun quantity s).used + 1)).flag else true := by
    rw [← sampled, ← lost, State.nackOwner, atNack_answer, atNack_answer]
    rfl
  have counted : u.nackCount = BitVec.ofNat 32 ((receiveRun quantity s).bytes.length + 1
      - (((receiveRun quantity s).ownerLost || (receiveRun quantity s).failed) || !u.nackOwner).toNat) := by
    rw [ofNat_succ_sub, ← early, State.nackCount]
    change (if c.early || !u.nackOwner then c.n - 1 else c.n) = _
    rw [count]
    rfl
  have closing : u.nackCalls = [.signalStop, .hasTimedOut u.nackTimeout] ++ (callIf (u.nackTimeout || stop && u.nackOwner)
      .issueBusStop ++ if u.nackTimeout then busResetCalls s.activeClockRate else []) := by
    rw [← stops]
    rfl
  change _ = WholeRun.mk (_ ++ u.nackCalls) _ _ _ _
  simp only [receiveWhole, if_pos started, loop, ← before, ← timeout, ← after, ← owner, ← counted, closing,
    List.append_assoc, Nat.add_assoc]
  rfl

/-- REQUEST_FROM with its start acknowledged does what `receiveWhole` says (R140 to R146). -/
theorem exec_requestFrom_started {s : State} (address : Byte) {quantity : Word} (stop : Bool) (undisturbed : s.undisturbed)
    (calls : s.callsReturn) (some : quantity ≠ 0) (started : (s.answer 0).flag = true) :
    exec (.requestFrom address quantity stop) s
      = .next { (s.asked (receiveWhole address quantity stop s).used).ended
            (receiveWhole address quantity stop s).calls (receiveWhole address quantity stop s).result with
          rx := s.rx.clear.storeAll s.cfg.nCap (receivingBytes quantity s)
          transmissionOpen := s.transmissionOpen && !(receiveWhole address quantity stop s).closes } := by
  obtain ⟨c, received, label, op, locals⟩ := reaches_receiveBytes address stop undisturbed calls some started
  have undrawn : c.d = none := (received.undrawn (.inl rfl)).resolve_right (by rw [atNack, State.did, label]; nofun)
  have ended := reaches_nackClosing (received.quiet (State.start_quiet _ undisturbed calls)) label undrawn op
  rw [exec_of_reaches rfl undisturbed (received.trans ended) rfl rfl, receiveWhole_eq started locals]
  simp only [atNack, State.did_asked, State.did_ended]
  rfl

/-- `receiveWhole` where the start is not acknowledged (R145). -/
theorem receiveWhole_unstarted {address : Byte} {quantity : Word} {stop : Bool} {s : State}
    (failed : (s.answer 0).flag = false) :
    receiveWhole address quantity stop s =
      { calls := .startTransaction address .read false :: .hasTimedOut (s.answer 1).flag
          :: if (s.answer 1).flag then busResetCalls s.activeClockRate else []
        result := 0
        used := 2
        bytes := []
        closes := (s.answer 1).flag } := by
  simp [receiveWhole, failed]

/-- REQUEST_FROM undisturbed does what `receiveWhole` says (R140 to R146). -/
theorem exec_requestFrom {s : State} (address : Byte) {quantity : Word} (stop : Bool) (undisturbed : s.undisturbed)
    (calls : s.callsReturn) (some : quantity ≠ 0) :
    ∃ r : Ring, r.c = (receiveWhole address quantity stop s).bytes ∧ exec (.requestFrom address quantity stop) s
      = .next { (s.asked (receiveWhole address quantity stop s).used).ended
            (receiveWhole address quantity stop s).calls (receiveWhole address quantity stop s).result with
          rx := r
          transmissionOpen := s.transmissionOpen && !(receiveWhole address quantity stop s).closes } := by
  cases started : (s.answer 0).flag with
  | false =>
    refine ⟨s.rx.clear, by rw [receiveWhole_unstarted started, Ring.clear_c], ?_⟩
    rw [exec_requestFrom_unstarted address stop undisturbed calls some started, receiveWhole_unstarted started]
  | true =>
    refine ⟨_, ?_, exec_requestFrom_started address stop undisturbed calls some started⟩
    rw [Ring.storeAll_c _ _ _ (Nat.zero_le _), Ring.clear_c, List.nil_append, receiveWhole, if_pos started]
    rfl

/-- Settles O36: both answers to the start. -/
theorem requestFromWhole : Obligations.RequestFromWhole :=
  fun address _ stop _ undisturbed calls _ some => exec_requestFrom address stop undisturbed calls some

end Sys2Proof.Machine

/-! THEOREMS. What the calls of REQUEST_FROM show of the bytes, the count, the stop and the timeout (R141 to R146), and what any
timeout does under law L1 (R124, R214, R223). -/

namespace Sys2Proof.Machine

/-! ## The loop -/

@[simp] theorem receivedBytes_append (a b : List Call) : receivedBytes (a ++ b) = receivedBytes a ++ receivedBytes b :=
  List.filterMap_append

/-- What the calls of the loop `F4`, `F5` show (R141). -/
theorem receiveLoop_shows (a : Nat → Draw) (m i : Nat) :
    receivedBytes (receiveLoop a m i).calls = (receiveLoop a m i).bytes
      ∧ sawTimeout (receiveLoop a m i).calls = (receiveLoop a m i).failed
      ∧ lostOwnership (receiveLoop a m i).calls = (receiveLoop a m i).ownerLost := by
  induction m generalizing i with
  | zero => exact ⟨rfl, rfl, rfl⟩
  | succ m ih =>
    unfold receiveLoop
    split
    · exact ⟨rfl, rfl, rfl⟩
    · split
      · obtain ⟨bytes, timeout, lost⟩ := ih (i + 3)
        exact ⟨congrArg (_ :: ·) bytes, timeout, lost⟩
      · exact ⟨rfl, rfl, rfl⟩

/-- The loop `F4`, `F5` ends early exactly when it has received fewer bytes than were left (R141). -/
theorem receiveLoop_length (a : Nat → Draw) (m i : Nat) :
    (receiveLoop a m i).bytes.length ≤ m ∧ ((receiveLoop a m i).bytes.length < m
      ↔ ((receiveLoop a m i).ownerLost || (receiveLoop a m i).failed) = true) := by
  induction m generalizing i with
  | zero => simp [receiveLoop]
  | succ m ih =>
    unfold receiveLoop
    split
    · simp
    · split
      · obtain ⟨within, early⟩ := ih (i + 3)
        exact ⟨Nat.succ_le_succ within, Nat.succ_lt_succ_iff.trans early⟩
      · simp

/-- The loop `F4`, `F5` samples no ownership when there is nothing to do, or on a timeout before the first sample (R141). -/
theorem receiveLoop_unsampled {a : Nat → Draw} {m i : Nat} (h : sampledOwnership (receiveLoop a m i).calls = false) :
    (receiveLoop a m i).ownerLost = false
      ∧ if (receiveLoop a m i).failed then 0 < m ∧ (receiveLoop a m i).used = i + 1
        else m = 0 ∧ (receiveLoop a m i).used = i := by
  cases m with
  | zero => exact ⟨rfl, rfl, rfl⟩
  | succ m =>
    unfold receiveLoop at h ⊢
    split
    · simp
    · rename_i onTime
      rw [if_neg onTime] at h
      split at h <;> cases h

/-- A timeout in the loop `F4`, `F5` is its last call (R141). -/
theorem receiveLoop_failed {a : Nat → Draw} {m i : Nat} (h : (receiveLoop a m i).failed = true) :
    ∃ before, (receiveLoop a m i).calls = before ++ [.hasTimedOut true] := by
  induction m generalizing i with
  | zero => cases h
  | succ m ih =>
    unfold receiveLoop at h ⊢
    split at h
    · exact ⟨[], by rw [if_pos ‹_›]; rfl⟩
    · split at h
      · obtain ⟨before, e⟩ := ih h
        refine ⟨.hasTimedOut false :: .hasBusOwnership true :: .signalContinue :: .receiveByte (a (i + 2)).byte :: before, ?_⟩
        rw [if_neg ‹_›, if_pos ‹_›]
        exact congrArg (_ :: _ :: _ :: _ :: ·) e
      · cases h

/-- The loop `F4`, `F5` asks for timeouts, ownership and bytes (R141). -/
theorem receiveLoop_requests {a : Nat → Draw} {m i : Nat} {c : Call} (h : c ∈ (receiveLoop a m i).calls) :
    c.request ∈ [.hasTimedOut, .hasBusOwnership, .signalContinue, .receiveByte] := by
  induction m generalizing i with
  | zero => cases h
  | succ m ih =>
    unfold receiveLoop at h
    split at h
    · rw [List.mem_singleton.mp h]
      simp [Call.request]
    · split at h
      · simp only [List.mem_cons] at h
        rcases h with rfl | rfl | rfl | rfl | later
        case inr.inr.inr.inr => exact ih later
        all_goals simp [Call.request]
      · rcases List.mem_pair.mp h with rfl | rfl <;> simp [Call.request]

theorem State.lastResult_host {s : State} {earlier : List Result} {v w : Word}
    (h : s.results = earlier ++ [⟨.host, v⟩]) (e : v = w) : s.lastResult = some ⟨.host, w⟩ := by
  simp [lastResult, h, e]

/-! ## The calls before the NACK and after it -/

section Started

variable (address : Byte) (quantity : Word) (stop : Bool) (s : State)

/-- The context in which REQUEST_FROM comes to the NACK, as far as the actions after it read it. -/
def nackCtx : Ctx :=
  { Ctx.idle with
    stop := stop
    early := (receiveRun quantity s).ownerLost || (receiveRun quantity s).failed
    ownerLost := (receiveRun quantity s).ownerLost
    sampled := sampledOwnership (receiveRun quantity s).calls
    n := BitVec.ofNat 32 (receivingBytes quantity s).length }

theorem nackCtx_locals : NackLocals quantity stop s (nackCtx quantity stop s) := ⟨rfl, rfl, rfl, rfl, rfl⟩

/-- The state in which REQUEST_FROM comes to the NACK. -/
def nackState : State := atNack address quantity (nackCtx quantity stop s) s

/-- The answer to the timeout query of REQUEST_FROM after the NACK (R144). -/
def receiveTimedOut : Bool := (nackState address quantity stop s).nackTimeout

/-- Whether REQUEST_FROM issues the stop (R143). -/
def receiveStops : Bool :=
  receiveTimedOut address quantity stop s || stop && (nackState address quantity stop s).nackOwner

variable {address quantity stop s}

/-- The calls before the NACK are starts and those of the loop. -/
theorem receivingCalls_requests {c : Call} (h : c ∈ receivingCalls address quantity s) :
    c.request ≠ .issueBusStop ∧ c.request ≠ .signalStop ∧ c.request.isConfiguration = false := by
  rcases List.mem_cons.mp h with rfl | h
  · exact ⟨nofun, nofun, rfl⟩
  · rcases List.mem_cons.mp h with rfl | looped
    · exact ⟨nofun, nofun, rfl⟩
    · have asked := receiveLoop_requests looped
      simp only [List.mem_cons, List.not_mem_nil, or_false] at asked
      rcases asked with e | e | e | e <;> rw [e] <;> exact ⟨nofun, nofun, rfl⟩

theorem configurationCalls_receivingCalls : configurationCalls (receivingCalls address quantity s) = [] :=
  List.filter_eq_nil_iff.mpr fun c mem => by simp [(receivingCalls_requests mem).2.2]

/-- What the calls before the NACK show (R140, R141). -/
theorem receivingCalls_shows :
    receivedBytes (receivingCalls address quantity s) = receivingBytes quantity s
      ∧ sawTimeout (receivingCalls address quantity s) = (receiveRun quantity s).failed
      ∧ lostOwnership (receivingCalls address quantity s) = (receiveRun quantity s).ownerLost
      ∧ sampledOwnership (receivingCalls address quantity s) = sampledOwnership (receiveRun quantity s).calls := by
  obtain ⟨bytes, timeout, lost⟩ := receiveLoop_shows s.answer (quantity.toNat - 1) 2
  exact ⟨congrArg (_ :: ·) bytes, timeout, lost, rfl⟩

/-- Fewer bytes are received than were asked for exactly when the loop ends early (R141, R142). -/
theorem receivingBytes_length (some : quantity ≠ 0) :
    (receivingBytes quantity s).length ≤ quantity.toNat ∧ ((receivingBytes quantity s).length < quantity.toNat
      ↔ ((receiveRun quantity s).ownerLost || (receiveRun quantity s).failed) = true) := by
  obtain ⟨within, early⟩ := receiveLoop_length s.answer (quantity.toNat - 1) 2
  have one : quantity.toNat ≠ 0 := fun none => some (BitVec.eq_of_toNat_eq none)
  rw [receivingBytes, List.length_cons, receiveRun, ← early]
  omega

/-- Where ownership is not sampled, the loop had no byte to receive, or a timeout ended it first (R141). -/
theorem receiveRun_unsampled (some : quantity ≠ 0) (h : sampledOwnership (receiveRun quantity s).calls = false) :
    (receiveRun quantity s).failed = false ↔ quantity = 1 := by
  obtain ⟨_, answered⟩ := receiveLoop_unsampled h
  have one : quantity.toNat ≠ 0 := fun none => some (BitVec.eq_of_toNat_eq none)
  change if (receiveRun quantity s).failed then 0 < quantity.toNat - 1 ∧ _ else quantity.toNat - 1 = 0 ∧ _ at answered
  rw [show (quantity = 1 ↔ quantity.toNat = 1) from BitVec.toNat_inj.symm]
  split at answered
  · have failed : (receiveRun quantity s).failed = true := ‹_›
    simp only [failed, Bool.true_eq_false, false_iff]
    omega
  · have unfailed : (receiveRun quantity s).failed = false := Bool.not_eq_true _ ▸ ‹_›
    simp only [unfailed, true_iff]
    omega

section
variable (started : (s.answer 0).flag = true)
include started

theorem receiveWhole_calls : (receiveWhole address quantity stop s).calls = receivingCalls address quantity s
    ++ ([.signalStop, .hasTimedOut (receiveTimedOut address quantity stop s)]
      ++ (callIf (receiveStops address quantity stop s) .issueBusStop
        ++ if receiveTimedOut address quantity stop s then busResetCalls s.activeClockRate else [])) := by
  rw [receiveWhole_eq started (nackCtx_locals quantity stop s)]
  rfl

theorem receiveWhole_closes :
    (receiveWhole address quantity stop s).closes = receiveTimedOut address quantity stop s := by
  rw [receiveWhole_eq started (nackCtx_locals quantity stop s)]
  rfl

theorem receiveWhole_bytes :
    (receiveWhole address quantity stop s).bytes = (receivingBytes quantity s).take s.cfg.nCap := by
  rw [receiveWhole_eq started (nackCtx_locals quantity stop s)]

/-- The calls from the NACK on show a timeout, but no byte and no ownership. -/
theorem receiveWhole_shows :
    receivedBytes (receiveWhole address quantity stop s).calls = receivingBytes quantity s
      ∧ sawTimeout (receiveWhole address quantity stop s).calls
        = ((receiveRun quantity s).failed || receiveTimedOut address quantity stop s)
      ∧ lostOwnership (receiveWhole address quantity stop s).calls = (receiveRun quantity s).ownerLost
      ∧ sampledOwnership (receiveWhole address quantity stop s).calls
        = sampledOwnership (receiveRun quantity s).calls := by
  obtain ⟨bytes, timeout, lost, sampled⟩ := receivingCalls_shows (address := address) (quantity := quantity) (s := s)
  rw [receiveWhole_calls started, receivedBytes_append, sawTimeout_append, lostOwnership_append,
    sampledOwnership_append, bytes, timeout, lost, sampled]
  cases receiveStops address quantity stop s <;> cases receiveTimedOut address quantity stop s <;>
    exact ⟨List.append_nil _, rfl, Bool.or_false _, Bool.or_false _⟩

/-- The ownership that decides after the NACK in the terms of the calls (R129, R142, R143): where nothing was sampled, it is
drawn behind the answer to the timeout query that ended the loop, or else behind the first byte. -/
theorem nackOwner_eq_ownerAfter {drawAt : Nat} (onTime : receiveTimedOut address quantity stop s = false)
    (decides : (receiveRun quantity s).failed = false ∨ stop = true)
    (place : sampledOwnership (receiveRun quantity s).calls = false →
      drawAt = if (receiveRun quantity s).failed then 4 else 2) :
    (nackState address quantity stop s).nackOwner
      = ownerAfter s (receiveWhole address quantity stop s).calls drawAt := by
  obtain ⟨_, _, lost, sampled⟩ := receiveWhole_shows (address := address) (stop := stop) started
  rw [ownerAfter, lost, sampled]
  cases unsampled : sampledOwnership (receiveRun quantity s).calls with
  | true => exact if_pos unsampled
  | false =>
    obtain ⟨held, answered⟩ := receiveLoop_unsampled unsampled
    have count : (nackState address quantity stop s).drawsForCount
        = (s.cfg.ownerUnsampled == .draw && !(receiveRun quantity s).failed) := by
      change (!sampledOwnership _ && s.cfg.ownerUnsampled == .draw && !(_ || _)) = _
      rw [unsampled, receiveRun, held]
      rfl
    have stops : (nackState address quantity stop s).drawsForStop
        = (s.cfg.ownerUnsampled == .draw && (receiveRun quantity s).failed && stop) := by
      change (!sampledOwnership _ && s.cfg.ownerUnsampled == .draw && (_ || _) && !receiveTimedOut address quantity stop s
        && stop) = _
      rw [unsampled, onTime, receiveRun, held]
      simp
    have read : (nackState address quantity stop s).nackOwner
        = if (nackState address quantity stop s).drawsForCount then (s.answer (receiveRun quantity s).used).flag
          else if (nackState address quantity stop s).drawsForStop then (s.answer ((receiveRun quantity s).used + 1)).flag
          else true := by
      rw [State.nackOwner, nackState, atNack_answer, atNack_answer]
      exact if_neg (by rw [← nackState]; change ¬sampledOwnership _ = true; simp [unsampled])
    rw [read, count, stops, place unsampled]
    change if (receiveRun quantity s).failed then _ ∧ (receiveRun quantity s).used = _
      else _ ∧ (receiveRun quantity s).used = _ at answered
    cases failed : (receiveRun quantity s).failed with
    | false =>
      have used : (receiveRun quantity s).used = 2 := (by simpa [failed] using answered : _ ∧ _).2
      rw [used]
      cases s.cfg.ownerUnsampled <;> rfl
    | true =>
      have used : (receiveRun quantity s).used = 3 := (by simpa [failed] using answered : _ ∧ _).2
      have requested : stop = true := decides.resolve_left (by simp [failed])
      rw [used, requested]
      cases s.cfg.ownerUnsampled <;> rfl

/-- A true answer to the timeout query after the NACK overrides the count (R144). -/
theorem receiveWhole_result_late (late : receiveTimedOut address quantity stop s = true) :
    (receiveWhole address quantity stop s).result = 0 := by
  rw [receiveWhole_eq started (nackCtx_locals quantity stop s)]
  exact if_pos late

/-- The count that REQUEST_FROM returns where the timeout query after the NACK is answered false (R142). -/
theorem receiveWhole_result (some : quantity ≠ 0) (onTime : receiveTimedOut address quantity stop s = false) :
    (receiveWhole address quantity stop s).result = BitVec.ofNat 32
      (if (receivingBytes quantity s).length < quantity.toNat
          ∨ ownerAfter s (receiveWhole address quantity stop s).calls 2 = false
        then (receivingBytes quantity s).length - 1 else (receivingBytes quantity s).length) := by
  have early := (receivingBytes_length (s := s) some).2
  let less : Bool := ((receiveRun quantity s).ownerLost || (receiveRun quantity s).failed)
    || !(nackState address quantity stop s).nackOwner
  have counted : (receiveWhole address quantity stop s).result
      = BitVec.ofNat 32 ((receivingBytes quantity s).length - less.toNat) := by
    rw [receiveWhole_eq started (nackCtx_locals quantity stop s)]
    change (if receiveTimedOut address quantity stop s then 0 else (nackState address quantity stop s).nackCount) = _
    rw [onTime, receivingBytes, List.length_cons, ofNat_succ_sub]
    rfl
  have same : less = true ↔ (receivingBytes quantity s).length < quantity.toNat
      ∨ ownerAfter s (receiveWhole address quantity stop s).calls 2 = false := by
    rw [early]
    cases failed : (receiveRun quantity s).failed with
    | true => simp [less, failed]
    | false =>
      rw [← nackOwner_eq_ownerAfter started onTime (.inl failed) fun _ => by simp [failed]]
      simp [less, failed]
  simp only [counted, ← same]
  cases less <;> rfl

end

end Started

/-! ## What the calls of REQUEST_FROM show -/

/-- Settles O41: the calls before the NACK are the loop, those after the timeout query are the stop and the bus reset. -/
theorem receiveTimeout : Obligations.ReceiveTimeout := by
  intro address quantity stop s undisturbed calls _ some started
  obtain ⟨r, _, run⟩ := exec_requestFrom address stop undisturbed calls some
  refine ⟨_, receivingCalls address quantity s, callIf (receiveStops address quantity stop s) .issueBusStop
    ++ if receiveTimedOut address quantity stop s then busResetCalls s.activeClockRate else [],
    receiveTimedOut address quantity stop s, run, ?_, fun mem => (receivingCalls_requests mem).2.1 rfl,
    configurationCalls_receivingCalls, fun late => ?_, fun onTime => ?_⟩
  · change s.trace ++ (receiveWhole address quantity stop s).calls = _
    rw [receiveWhole_calls started]
    simp only [List.append_assoc]
  · have stops : receiveStops address quantity stop s = true := by rw [receiveStops, late, Bool.true_or]
    refine ⟨by rw [stops, late]; rfl, ?_, ?_⟩
    · change (s.transmissionOpen && !(receiveWhole address quantity stop s).closes) = false
      rw [receiveWhole_closes started, late, Bool.not_true, Bool.and_false]
    · exact State.lastResult_host rfl (receiveWhole_result_late started late)
  · refine ⟨?_, ?_⟩
    · rw [onTime]
      cases receiveStops address quantity stop s <;> simp [callIf]
    · change (s.transmissionOpen && !(receiveWhole address quantity stop s).closes) = _
      rw [receiveWhole_closes started, onTime, Bool.not_false, Bool.and_true]

/-- The stop rule in the terms of the calls (R143). -/
theorem receiveStops_eq {address : Byte} {quantity : Word} {stop : Bool} {s : State} (started : (s.answer 0).flag = true)
    (some : quantity ≠ 0) : receiveStops address quantity stop s = (receiveTimedOut address quantity stop s
      || stop && ownerAfter s (receiveWhole address quantity stop s).calls (if quantity = 1 then 2 else 4)) := by
  unfold receiveStops
  cases onTime : receiveTimedOut address quantity stop s with
  | true => rfl
  | false =>
    cases stop with
    | false => rfl
    | true =>
      rw [nackOwner_eq_ownerAfter started onTime (.inr rfl) fun unsampled => ?_]
      have single := receiveRun_unsampled some unsampled
      cases failed : (receiveRun quantity s).failed <;> simp_all

/-- Settles O40: a failed start makes no stop; otherwise it stands behind the timeout query. -/
theorem receiveStopRule : Obligations.ReceiveStopRule := by
  intro address quantity stop s undisturbed calls _ some
  obtain ⟨r, _, run⟩ := exec_requestFrom address stop undisturbed calls some
  refine ⟨_, (receiveWhole address quantity stop s).calls, run, rfl, fun failed mem => ?_, fun started => ?_⟩
  · rw [receiveWhole_unstarted failed] at mem
    cases late : (s.answer 1).flag <;> simp [late, busResetCalls] at mem
  · refine ⟨receivingCalls address quantity s,
      if receiveTimedOut address quantity stop s then busResetCalls s.activeClockRate else [],
      receiveTimedOut address quantity stop s, ?_, fun mem => (receivingCalls_requests mem).1 rfl, ?_⟩
    · rw [← receiveStops_eq started some]
      simpa only [List.append_assoc] using receiveWhole_calls started
    · cases receiveTimedOut address quantity stop s <;> simp [busResetCalls]

/-- Settles O39: the count adjustment, and what the calls before the NACK and after it show. -/
theorem countAdjustment : Obligations.CountAdjustment := by
  intro address quantity stop s undisturbed calls _ some started
  obtain ⟨r, held, run⟩ := exec_requestFrom address stop undisturbed calls some
  obtain ⟨bytes, _⟩ := receiveWhole_shows (address := address) (quantity := quantity) (stop := stop) started
  obtain ⟨_, timeout, lost, _⟩ := receivingCalls_shows (address := address) (quantity := quantity) (s := s)
  obtain ⟨within, early⟩ := receivingBytes_length (s := s) some
  refine ⟨_, (receiveWhole address quantity stop s).calls, receivingCalls address quantity s,
    callIf (receiveStops address quantity stop s) .issueBusStop
      ++ if receiveTimedOut address quantity stop s then busResetCalls s.activeClockRate else [],
    receiveTimedOut address quantity stop s, run, rfl, receiveWhole_calls started,
    fun mem => (receivingCalls_requests mem).2.1 rfl, ?_, ?_⟩
  · cases receiveStops address quantity stop s <;> cases receiveTimedOut address quantity stop s <;> rfl
  · rw [bytes, timeout, lost]
    refine ⟨Nat.succ_le_succ (Nat.zero_le _), within, by rw [early, Bool.or_eq_true], ?_, fun onTime => ?_⟩
    · exact held.trans (receiveWhole_bytes started)
    · exact State.lastResult_host rfl (receiveWhole_result started some onTime)

/-- Settles O38: to a responsive peer nothing ends the loop early, and the ownership is held. -/
theorem responsiveRead : Obligations.ResponsiveRead := by
  intro address quantity stop s undisturbed calls _ some retained
  obtain ⟨r, held, run⟩ := exec_requestFrom address stop undisturbed calls some
  refine ⟨_, (receiveWhole address quantity stop s).calls, run, rfl, fun responsive => ?_⟩
  obtain ⟨_, _, owned, onTime⟩ := responsive.shows
  have started : (s.answer 0).flag = true := by
    by_contra failed
    rw [Bool.not_eq_true] at failed
    exact absurd (responsive (.startTransaction address .read false) (by simp [receiveWhole_unstarted failed])) nofun
  obtain ⟨bytes, timeout, lost, sampled⟩ := receiveWhole_shows (address := address) (quantity := quantity) (stop := stop) started
  rw [owned] at lost
  obtain ⟨unfailed, unlate⟩ := Bool.or_eq_false_iff.mp (timeout ▸ onTime)
  obtain ⟨within, early⟩ := receivingBytes_length (s := s) some
  have all : (receivingBytes quantity s).length = quantity.toNat := by
    have : ¬(receivingBytes quantity s).length < quantity.toNat := by simp [early, ← lost, unfailed]
    omega
  have owner : ownerAfter s (receiveWhole address quantity stop s).calls 2 = true := by
    rw [ownerAfter, owned, sampled]
    cases unsampled : sampledOwnership (receiveRun quantity s).calls with
    | true => rfl
    | false => rw [retained.resolve_right fun several => several ((receiveRun_unsampled some unsampled).mp unfailed)]; rfl
  have result : (receiveWhole address quantity stop s).result = quantity := by
    rw [receiveWhole_result started some unlate, all, owner]
    simp
  refine ⟨State.lastResult_host rfl result, by rw [bytes, all], ?_⟩
  · rw [bytes]
    exact held.trans (receiveWhole_bytes started)

/-! ## Timeouts under law L1 -/

/-- The latch of law L1: a call that does not end it stands between two timeout queries. -/
theorem TimeoutLatch.latched {calls before after : List Call} {c : Call} {answer : Bool} (h : TimeoutLatch calls)
    (e : calls = before ++ .hasTimedOut true :: c :: .hasTimedOut answer :: after) (keeps : c.request.endsTimeout = false) :
    answer = true := by
  by_contra ended
  rw [Bool.not_eq_true] at ended
  obtain ⟨k, between, after_, before_, placed, ends⟩ := h before.length (before.length + 2) (by omega) (by simp [e])
    (by simp [e, ended])
  have next : k = before.length + 1 := by omega
  have same : c = between := by simpa [e, next] using placed
  rw [← same, keeps] at ends
  cases ends

/-- A timeout that END_TRANSMISSION is told of resets the bus and is its result (R131). -/
theorem sendWhole_late {stop : Bool} {s : State} (late : sawTimeout (sendWhole stop s).calls = true) :
    (∃ before, (sendWhole stop s).calls = before ++ busResetCalls s.activeClockRate ∧ configurationCalls before = [])
      ∧ (sendWhole stop s).result = 4 := by
  obtain ⟨_, _, timeout⟩ := sendWhole_errors stop s
  rw [timeout] at late
  refine ⟨⟨sendingCalls s ++ (callIf (sendStops stop s) .issueBusStop ++ [.hasTimedOut true]), ?_, ?_⟩, ?_⟩
  · rw [sendWhole_calls, late]
    simp
  · rw [configurationCalls_append, configurationCalls_sendingCalls]
    cases sendStops stop s <;> rfl
  · rw [sendWhole_closingResult, late]
    rfl

/-- Under law L1 a timeout that REQUEST_FROM is told of in the loop is told again after the NACK (R141, R144). -/
theorem receiveTimedOut_of_latch {address : Byte} {quantity : Word} {stop : Bool} {s : State}
    (started : (s.answer 0).flag = true) (latch : TimeoutLatch (receiveWhole address quantity stop s).calls)
    (late : sawTimeout (receiveWhole address quantity stop s).calls = true) :
    receiveTimedOut address quantity stop s = true := by
  rw [(receiveWhole_shows started).2.1, Bool.or_eq_true] at late
  refine late.elim (fun failed => ?_) id
  obtain ⟨before, e⟩ := receiveLoop_failed failed
  have looped : receivingCalls address quantity s
      = .startTransaction address .read true :: .receiveByte (s.answer 1).byte :: before ++ [.hasTimedOut true] :=
    congrArg (_ :: _ :: ·) e
  have told := receiveWhole_calls (address := address) (quantity := quantity) (stop := stop) started
  rw [looped] at told
  simp only [List.append_assoc, List.cons_append, List.nil_append] at told
  exact latch.latched (before := .startTransaction address .read true :: .receiveByte (s.answer 1).byte :: before) told rfl

/-- Under law L1 a timeout that REQUEST_FROM is told of resets the bus, closes the transmission and makes the result 0
(R144, R145). -/
theorem receiveWhole_late {address : Byte} {quantity : Word} {stop : Bool} {s : State}
    (latch : TimeoutLatch (receiveWhole address quantity stop s).calls)
    (late : sawTimeout (receiveWhole address quantity stop s).calls = true) :
    (∃ before, (receiveWhole address quantity stop s).calls = before ++ busResetCalls s.activeClockRate
        ∧ configurationCalls before = [])
      ∧ (receiveWhole address quantity stop s).closes = true ∧ (receiveWhole address quantity stop s).result = 0 := by
  cases started : (s.answer 0).flag with
  | false =>
    rw [receiveWhole_unstarted started] at late ⊢
    have told : (s.answer 1).flag = true := by
      cases onTime : (s.answer 1).flag with
      | true => rfl
      | false =>
        rw [onTime] at late
        cases late
    exact ⟨⟨[.startTransaction address .read false, .hasTimedOut true], by rw [told]; rfl, rfl⟩, told, rfl⟩
  | true =>
    have told := receiveTimedOut_of_latch started latch late
    have stops : receiveStops address quantity stop s = true := by rw [receiveStops, told, Bool.true_or]
    refine ⟨⟨receivingCalls address quantity s ++ [.signalStop, .hasTimedOut true, .issueBusStop], ?_, ?_⟩,
      (receiveWhole_closes started).trans told, receiveWhole_result_late started told⟩
    · rw [receiveWhole_calls started, told, stops]
      simp [callIf]
    · rw [configurationCalls_append, configurationCalls_receivingCalls]
      rfl

/-- Settles O42: END_TRANSMISSION asks for the timeout once; in REQUEST_FROM the latch carries a timeout over the NACK; a
request for 0 bytes asks for nothing. -/
theorem anyTimeoutResets : Obligations.AnyTimeoutResets := by
  rintro i s (⟨stop, rfl⟩ | ⟨address, quantity, stop, rfl⟩) undisturbed calls legal within
  · have run := exec_endTransmission stop undisturbed calls fun _ => State.tx_short legal within
    refine ⟨_, (sendWhole stop s).calls, run, rfl, fun _ late => ?_⟩
    obtain ⟨reset, result⟩ := sendWhole_late late
    exact ⟨reset, rfl, rfl, State.lastResult_host rfl result⟩
  · by_cases some : quantity = 0
    · subst some
      exact ⟨_, [], requestZero address stop s undisturbed, rfl, fun _ late => by cases late⟩
    · obtain ⟨r, _, run⟩ := exec_requestFrom address stop undisturbed calls some
      refine ⟨_, (receiveWhole address quantity stop s).calls, run, rfl, fun latch late => ?_⟩
      obtain ⟨reset, closes, result⟩ := receiveWhole_late latch late
      refine ⟨reset, ?_, rfl, State.lastResult_host rfl result⟩
      change (s.transmissionOpen && !(receiveWhole address quantity stop s).closes) = false
      rw [closes, Bool.not_true, Bool.and_false]

end Sys2Proof.Machine

/-! THEOREMS. What a SERVICE step does where every call returns (R170 to R178): from the snapshot to the return, and the
cases that call no callback. -/

namespace Sys2Proof.Machine

/-! ## Inside a SERVICE step -/

/-- The interrupt agent is inside a SERVICE step that has taken `n` answers and made these calls. -/
def State.serving (n : Nat) (calls : List Call) (s : State) : State :=
  { s.asked n with inService := true, stop := none, trace := s.trace ++ calls }

@[simp] theorem State.serving_cfg (n : Nat) (made : List Call) (s : State) : (s.serving n made).cfg = s.cfg := rfl
@[simp] theorem State.serving_rx (n : Nat) (made : List Call) (s : State) : (s.serving n made).rx = s.rx := rfl

theorem State.serving_record (n : Nat) (made : List Call) (c : Call) (s : State) :
    (s.serving n made).record c = s.serving n (made ++ [c]) := by
  simp [serving, record, asked]

theorem State.serving_call {s : State} (calls : s.callsReturn) (n : Nat) (made : List Call) (c : Call) :
    (s.serving n made).call c = s.serving n (made ++ [c]) := by
  rw [State.call_returns c (s.serving n made) calls, State.serving_record]

theorem State.serving_askFlag {s : State} (calls : s.callsReturn) (n : Nat) (made : List Call) (c : Bool → Call) :
    (s.serving n made).askFlag c = ((s.answer n).flag, s.serving (n + 1) (made ++ [c (s.answer n).flag])) := by
  have answer : (s.serving n made).answer 0 = s.answer n := State.answer_asked n 0 s
  rw [askFlag_of_callsReturn (s := s.serving n made) calls, answer]
  simp [serving, asked, Nat.add_assoc]

theorem State.serving_askByte {s : State} (calls : s.callsReturn) (n : Nat) (made : List Call) (c : Byte → Call) :
    (s.serving n made).askByte c = ((s.answer n).byte, s.serving (n + 1) (made ++ [c (s.answer n).byte])) := by
  have answer : (s.serving n made).answer 0 = s.answer n := State.answer_asked n 0 s
  have taken : (s.serving n made).dropDraw = s.serving (n + 1) made := by simp [serving, dropDraw, asked, Nat.add_assoc]
  rw [askByte, nextDraw_eq_answer, answer, taken, State.serving_call calls]

/-- The return from SERVICE (R241). -/
theorem State.serving_leaveService {s : State} (outside : s.inService = false) (n : Nat) (made : List Call) :
    (s.serving n made).leaveService = (s.asked n).served made := by
  simp [serving, leaveService, deliver, served, asked, outside]

theorem ackEvent_serving {s : State} (calls : s.callsReturn) (n : Nat) (made : List Call) :
    ackEvent (s.serving n made) = s.serving n (made ++ [Call.signalContinue, .acknowledgeEvent]) := by
  rw [ackEvent, State.serving_call calls, State.serving_call calls, List.append_assoc]
  rfl

/-! ## From the snapshot to the return -/

/-- A SERVICE step that meets no stop answers the state it ends in. -/
theorem exec_service_of_serviceStep {s t : State} (h : serviceStep { s with stop := none } = t) (free : t.stop = none) :
    exec .service s = .next t := by
  rw [exec, execService, outcome_serviceStep, h, free]

/-- The mode gate (R171): after a false answer of `isSlaveMode` the step returns. -/
theorem serviceStep_of_notSlave {s : State} (outside : s.inService = false) (calls : s.callsReturn)
    (notSlave : (s.answer 0).flag = false) : serviceStep s = State.leaveService
      { s.asked 1 with inService := true, trace := s.trace ++ [.isSlaveMode false] } := by
  simp [serviceStep, outside, enterService_asks calls, notSlave]

/-- Settles O45 by the mode gate. -/
theorem modeGate : Obligations.ModeGate := fun s outside calls notSlave =>
  exec_service_of_serviceStep
    ((serviceStep_of_notSlave (s := { s with stop := none }) outside calls notSlave).trans
      (State.serving_leaveService outside 1 [.isSlaveMode false])) rfl

/-- A SERVICE event in slave mode does what the case of its snapshot does (R170 to R173). -/
theorem exec_service_of_reports {s t : State} {p : Snapshot} {n : Nat} {made : List Call} (outside : s.inService = false)
    (calls : s.callsReturn) (reports : s.reports p)
    (runs : serviceCases p (s.serving 6 (snapshotCalls p)) = t.serving n made) (after : t.inService = false) :
    exec .service s = .next ((t.asked n).served made) := by
  refine exec_service_of_serviceStep ?_ rfl
  have snapshot : State.snapped p { s with stop := none } = s.serving 6 (snapshotCalls p) := rfl
  rw [serviceStep_of_reports (s := { s with stop := none }) outside calls reports, snapshot, runs,
    State.serving_leaveService after]

/-- Settles O46: the case split of the snapshot takes no branch. -/
theorem noEvent : Obligations.NoEvent := by
  intro p s outside calls reports noEnd noMatch noSlot
  exact exec_service_of_reports outside calls reports (by simp [serviceCases, noEnd, noMatch, noSlot]) outside

/-! ## Data slots (R176, R177) -/

theorem serviceCases_of_slot {p : Snapshot} (noEnd : p.endsWriteSession = false) (noMatch : p.am = false)
    (slot : p.dr = true) (s : State) : serviceCases p s = if p.rd then serviceSupply s else serviceTake s := by
  simp [serviceCases, noEnd, noMatch, slot]

/-- Settles O49: the read of `tx` and the call of `sendByte`, in this order. -/
theorem supplyByte : Obligations.SupplyByte := by
  intro p s outside calls reports noEnd noMatch slot read
  let popped : State := { s with tx := s.tx.read.2 }
  have sent := State.serving_askFlag (s := popped) calls 6 (snapshotCalls p) (.sendByte (s.tx.c.head?.getD fillByte))
  refine (exec_service_of_reports (t := popped.setOpen (s.answer 6).flag) outside calls reports ?_ outside).trans rfl
  rw [serviceCases_of_slot noEnd noMatch slot, if_pos read]
  exact congrArg (fun r : Bool × State => r.2.setOpen r.1) sent

/-- Settles O50: the room in `rx` decides. -/
theorem takeByte : Obligations.TakeByte := by
  intro p s outside calls reports noEnd noMatch slot write
  have takes (u : State) : serviceCases p u = serviceTake u := by
    rw [serviceCases_of_slot noEnd noMatch slot, write, if_neg Bool.false_ne_true]
  refine ⟨fun full => ?_, fun room => ⟨(s.rx.store s.cfg.nCap (s.answer 6).byte).2, by simp [room], ?_⟩⟩
  · refine exec_service_of_reports outside calls reports ?_ outside
    simp [takes, serviceTake, Ring.isFull, full, State.serving_call calls]
  · let stored : State := { s with rx := (s.rx.store s.cfg.nCap (s.answer 6).byte).2 }
    have answered (made : List Call) :
        ((s.serving 7 made).storeByte .rx (s.answer 6).byte).2 = stored.serving 7 made := rfl
    refine (exec_service_of_reports (t := stored) outside calls reports ?_ outside).trans rfl
    simp [takes, serviceTake, Ring.isFull, room, State.serving_askByte calls, answered,
      State.serving_call (s := stored) calls]

end Sys2Proof.Machine

/-! THEOREMS. SERVICE with a callback in it (R174, R175, R186). The commands of a callback work on `tx`, `rx` and the results
only, so inside SERVICE they do what they do on the state before it. -/

namespace Sys2Proof.Machine

/-! ## The commands of a callback -/

/-- The state `o` with the fields of `s` that the commands of a callback write. -/
def State.holding (o s : State) : State := { o with tx := s.tx, rx := s.rx, results := s.results, stop := s.stop }

theorem writeBytesNow_holding (l : List Byte) (k : Word) {o s : State} (cfg : o.cfg = s.cfg)
    (opened : o.transmissionOpen = s.transmissionOpen) :
    writeBytesNow l k (o.holding s) = (o.holding (writeBytesNow l k s).1, (writeBytesNow l k s).2) := by
  induction l generalizing k s with
  | nil => rfl
  | cons v rest ih =>
    have told : ((o.holding s).storeByte .tx v).1 = (s.storeByte .tx v).1 :=
      congrArg (fun c : Config => (s.tx.store c.nCap v).1) cfg
    have stored : ((o.holding s).storeByte .tx v).2 = o.holding (s.storeByte .tx v).2 :=
      congrArg (fun c : Config => { o.holding s with tx := (s.tx.store c.nCap v).2 }) cfg
    have flag : (o.holding s).transmissionOpen = s.transmissionOpen := opened
    unfold writeBytesNow
    rw [flag, told, stored, ih (s := (s.storeByte .tx v).2) _ cfg opened]
    repeat' split
    all_goals rfl

theorem appMeaning_holding {i : Instr} {f : State → State × Word} (h : appMeaning i = some f) {o s : State}
    (cfg : o.cfg = s.cfg) (opened : o.transmissionOpen = s.transmissionOpen) :
    f (o.holding s) = (o.holding (f s).1, (f s).2) := by
  cases i with
  | writeByte v =>
    cases h
    have flag : (o.holding s).transmissionOpen = s.transmissionOpen := opened
    have nCap : (o.holding s).cfg = s.cfg := cfg
    simp only [writeByteNow, flag, State.storeByte, nCap]
    split <;> rfl
  | writeBytes n l => cases h; exact writeBytesNow_holding l 0 cfg opened
  | available => cases h; rfl
  | read => cases h; rfl
  | peek => cases h; rfl
  | _ => cases h

theorem appCommand_holding (x : Command) {o s : State} (cfg : o.cfg = s.cfg)
    (opened : o.transmissionOpen = s.transmissionOpen) : appCommand (o.holding s) x = o.holding (appCommand s x) := by
  unfold appCommand
  split
  · rfl
  · split
    · rfl
    · rename_i f meaning
      rw [appMeaning_holding meaning cfg opened]
      rfl

theorem foldl_appCommand_holding (l : List Command) {o s : State} (cfg : o.cfg = s.cfg)
    (opened : o.transmissionOpen = s.transmissionOpen) :
    l.foldl appCommand (o.holding s) = o.holding (l.foldl appCommand s) := by
  induction l generalizing s with
  | nil => rfl
  | cons x rest ih =>
    obtain ⟨sameCfg, -, sameOpen, -⟩ := appCommand_frame s x
    rw [List.foldl_cons, appCommand_holding x cfg opened, List.foldl_cons]
    exact ih (cfg.trans sameCfg.symm) (opened.trans sameOpen.symm)

/-- The application agent presents only admitted commands in its next callback, and returns from it (R186). -/
def State.callbackReturns (s : State) : Prop :=
  ∀ r ∈ s.apps.head?, r.returns = true ∧ ∀ c ∈ r.commands, c.admitted = true

theorem State.callbackReturns_of_wellBehaved {s : State} (behaved : s.wellBehaved = true) : s.callbackReturns :=
  fun r next => ((State.wellBehaved_iff s).mp behaved).2.2 r (List.mem_of_head? next)

theorem State.callbackReturns_cons {s : State} {r : AppRun} {more : List AppRun} (apps : s.apps = r :: more)
    (returns : r.returns = true) (admitted : ∀ c ∈ r.commands, c.admitted = true) : s.callbackReturns := by
  rw [State.callbackReturns, apps]
  rintro x ⟨⟩
  exact ⟨returns, admitted⟩

theorem State.afterCallback_cons {s : State} {r : AppRun} {more : List AppRun} (apps : s.apps = r :: more) :
    s.afterCallback = r.commands.foldl appCommand s := by
  simp [afterCallback, apps]

/-- The state that the next callback leaves (R186). -/
def State.calledBack (s : State) : State :=
  { s with
    tx := s.afterCallback.tx
    rx := s.afterCallback.rx
    results := s.afterCallback.results
    apps := s.apps.tail }

/-- A callback inside SERVICE is handed over, and its commands do what they do on the state before it. -/
theorem callback_serving {s : State} (free : s.stop = none) (returns : s.callbackReturns) (n : Nat) (made : List Call)
    (c : Call) : (s.serving n made).callback c = s.calledBack.serving n (made ++ [c]) := by
  cases apps : s.apps with
  | nil => simp [State.callback, State.serving, State.asked, State.record, State.calledBack, State.afterCallback, apps]
  | cons r more =>
    obtain ⟨ends, admitted⟩ := returns r (by simp [apps])
    have after : s.afterCallback = r.commands.foldl appCommand s := State.afterCallback_cons apps
    have met : s.afterCallback.stop = none := by rw [after, foldl_appCommand_stop_of_admitted admitted, free]
    let o : State := { s.serving n (made ++ [c]) with apps := more }
    have before : ({ (s.serving n made).record c with apps := more } : State) = o.holding s := by
      simp [o, State.holding, State.serving, State.asked, free]
    have ran : r.commands.foldl appCommand (o.holding s) = o.holding s.afterCallback :=
      after ▸ foldl_appCommand_holding r.commands rfl rfl
    rw [callback_cons (s := s.serving n made) apps, runApp, if_pos ends, before, ran]
    simp [o, State.holding, State.calledBack, State.serving, State.asked, apps, met]

/-! ## The end of a write session (R174) -/

/-- Case 1 inside SERVICE, up to the callback. -/
theorem serviceStop_serving {s : State} (calls : s.callsReturn) (n : Nat) (made : List Call) :
    serviceStop (s.serving n made) = State.clearBuf .rx
      (if s.onReceiveHandler.registered then
        (s.serving n (made ++ [Call.signalContinue, .acknowledgeEvent])).callback
          (Call.callbackOnReceive s.onReceiveHandler.handle s.rx.available)
      else s.serving n (made ++ [Call.signalContinue, .acknowledgeEvent])) := by
  rw [← ackEvent_serving calls]
  rfl

/-- The end of a write session with `onReceive` registered (R174). -/
theorem exec_service_onReceive {s : State} {p : Snapshot} (outside : s.inService = false) (free : s.stop = none)
    (calls : s.callsReturn) (returns : s.callbackReturns) (reports : s.reports p) (ends : p.endsWriteSession = true)
    (registered : s.onReceiveHandler.registered = true) :
    exec .service s = .next ((({ s.calledBack with rx := s.afterCallback.rx.clear } : State).asked 6).served
      (snapshotCalls p ++ [Call.signalContinue, .acknowledgeEvent,
        .callbackOnReceive s.onReceiveHandler.handle s.rx.available])) := by
  refine exec_service_of_reports outside calls reports ?_ outside
  rw [serviceCases, if_pos ends, serviceStop_serving calls, if_pos registered, callback_serving free returns,
    List.append_assoc]
  rfl

/-- Settles O47: case 1 with and without a callback. -/
theorem endOfWriteSession : Obligations.EndOfWriteSession := by
  intro p s outside behaved reports ends
  obtain ⟨free, calls, -⟩ := (State.wellBehaved_iff s).mp behaved
  refine ⟨fun unregistered => ?_, fun registered =>
    exec_service_onReceive outside free calls (State.callbackReturns_of_wellBehaved behaved) reports ends registered⟩
  refine (exec_service_of_reports (t := s.clearBuf .rx) outside calls reports ?_ outside).trans rfl
  rw [serviceCases, if_pos ends, serviceStop_serving calls, if_neg (Bool.eq_false_iff.mp unregistered)]
  rfl

/-! ## An address match (R175) -/

theorem serviceCases_of_match {p : Snapshot} (noEnd : p.endsWriteSession = false) (matched : p.am = true) (s : State) :
    serviceCases p s = serviceAddress p.rd s := by
  simp [serviceCases, noEnd, matched]

theorem serviceAddress_write (s : State) : serviceAddress false s = ackEvent s := rfl

/-- The state in which `onRequest` is called: `tx` is cleared and open for writes (R175). -/
def State.openedTx (s : State) : State := { s with tx := { s.tx with c := [] }, transmissionOpen := true }

/-- Case 2 for a master-read inside SERVICE, up to the callback. -/
theorem serviceAddress_read_serving {s : State} (calls : s.callsReturn) (n : Nat) (made : List Call) :
    serviceAddress true (s.serving n made) =
      if s.onRequestHandler.registered then
        (s.openedTx.serving n (made ++ [Call.signalContinue, .acknowledgeEvent])).callback
          (Call.callbackOnRequest s.onRequestHandler.handle)
      else s.openedTx.serving n (made ++ [Call.signalContinue, .acknowledgeEvent]) := by
  have opened : s.openedTx.serving n (made ++ [Call.signalContinue, .acknowledgeEvent])
      = ((ackEvent (s.serving n made)).clearBuf .tx).setOpen true := by
    rw [ackEvent_serving calls]
    rfl
  rw [opened]
  rfl

/-- An address match for a master-read with `onRequest` registered (R175). -/
theorem exec_service_onRequest {s : State} {p : Snapshot} (outside : s.inService = false) (free : s.stop = none)
    (calls : s.callsReturn) (returns : s.callbackReturns) (reports : s.reports p) (noEnd : p.endsWriteSession = false)
    (matched : p.am = true) (read : p.rd = true) (registered : s.onRequestHandler.registered = true) :
    exec .service s = .next ((s.openedTx.calledBack.asked 6).served (snapshotCalls p ++ [Call.signalContinue,
      .acknowledgeEvent, .callbackOnRequest s.onRequestHandler.handle])) := by
  refine exec_service_of_reports outside calls reports ?_ outside
  rw [serviceCases_of_match noEnd matched, read, serviceAddress_read_serving calls, if_pos registered,
    callback_serving (s := s.openedTx) free returns, List.append_assoc]
  rfl

/-- Settles O48: case 2 for a master-write, and for a master-read without and with a callback. -/
theorem addressMatch : Obligations.AddressMatch := by
  intro p s outside behaved reports noEnd matched
  obtain ⟨free, calls, -⟩ := (State.wellBehaved_iff s).mp behaved
  refine ⟨fun write => ?_, fun read unregistered => ?_, fun read registered =>
    (exec_service_onRequest outside free calls (State.callbackReturns_of_wellBehaved behaved) reports noEnd matched read
      registered).trans ?_⟩
  · refine exec_service_of_reports outside calls reports ?_ outside
    rw [serviceCases_of_match noEnd matched, write, serviceAddress_write, ackEvent_serving calls]
  · refine (exec_service_of_reports (t := s.openedTx) outside calls reports ?_ outside).trans rfl
    rw [serviceCases_of_match noEnd matched, read, serviceAddress_read_serving calls,
      if_neg (Bool.eq_false_iff.mp unregistered)]
  · rfl

end Sys2Proof.Machine

/-! THEOREMS. Callback registration (R181, R182), and the commands of a callback against the same commands of the host (R186). -/

namespace Sys2Proof.Machine

/-- Settles O44: each command is one action, the write of its slot. -/
theorem handlersRegister : Obligations.HandlersRegister := fun _ _ _ => ⟨rfl, rfl⟩

/-- A command that a callback may present has a meaning there (R86, R186). -/
theorem appMeaning_of_forCallbacks {i : Instr} (admitted : forCallbacks i = true) : ∃ f, appMeaning i = some f := by
  cases i with
  | writeByte | writeBytes | available | read | peek => exact ⟨_, rfl⟩
  | _ => cases admitted

theorem appCommand_of_appMeaning {c : Command} {i : Instr} {f : State → State × Word}
    (decoded : decodeWord c.word c.payload = .ok i) (meaning : appMeaning i = some f) (s : State) :
    appCommand s c = (f s).1.deliver .application (f s).2 := by
  simp only [appCommand, decoded, meaning]

theorem admitted_of_appMeaning {c : Command} {i : Instr} {f : State → State × Word}
    (decoded : decodeWord c.word c.payload = .ok i) (meaning : appMeaning i = some f) : c.admitted = true := by
  simp only [Command.admitted, decoded, meaning, Option.isSome_some]

/-- The return of a command that leaves no context behind is the delivery of its result. -/
theorem State.returnHost_of_idle {s : State} (idle : s.ctx = Ctx.idle) (v : Word) :
    s.returnHost v = s.deliver .host v := by
  simp [returnHost, deliver, idle]

/-- A command presented by the host and run undisturbed does what it does in a callback in one action (R126, R127,
R150 to R152, R186). -/
theorem exec_of_appMeaning {i : Instr} {f : State → State × Word} {s : State} (meaning : appMeaning i = some f)
    (wf : i.wellFormed = true) (undisturbed : s.undisturbed) (idle : s.ctx = Ctx.idle) (free : s.stop = none) :
    exec i s = .next ((f s).1.deliver .host (f s).2) := by
  have unchanged : ({ s with stop := none } : State) = s := by rw [← free]
  cases i with
  | writeByte v =>
    cases meaning
    rw [exec_writeByte v undisturbed, writeByteNow]
    split
    · rw [← State.returnHost_eq_ended (s := (s.storeByte .tx v).2) free,
        State.returnHost_of_idle (s := (s.storeByte .tx v).2) idle]
    · rw [← State.returnHost_eq_ended free, State.returnHost_of_idle idle]
  | writeBytes count payload =>
    cases meaning
    have length : payload.length = count.toNat := by simpa [Instr.wellFormed, Instr.payloadMatches] using wf
    rw [exec_writeBytes undisturbed length, unchanged,
      State.returnHost_of_idle ((Served.writeBytesNow payload 0 s).ctx.trans idle)]
  | available => cases meaning; rfl
  | read => cases meaning; rfl
  | peek => cases meaning; rfl
  | _ => cases meaning

/-- Settles O23: the run of the labelled actions of the two write commands is their atomic form. -/
theorem callbackCommandsKeepTheirRules : Obligations.CallbackCommandsKeepTheirRules := by
  intro i s wf undisturbed idle free _ admitted
  obtain ⟨f, meaning⟩ := appMeaning_of_forCallbacks admitted
  exact ⟨f, meaning, exec_of_appMeaning meaning wf undisturbed idle free,
    fun _ decoded => appCommand_of_appMeaning decoded meaning s⟩

end Sys2Proof.Machine

/-! THEOREMS. Sessions of a peer (R174 to R177, R186): SERVICE events one after the other, in which the peer's bytes go into
`rx` and are read inside `onReceive`, or the bytes written inside `onRequest` go to the peer. -/

namespace Sys2Proof.Machine

/-! ## SERVICE events one after the other -/

/-- `k` data slots have been served: each took seven answers, and together they made these calls; nothing else is
changed. -/
def State.afterSlots (k : Nat) (calls : List Call) (s : State) : State :=
  { s.asked (7 * k) with trace := s.trace ++ calls, results := s.results ++ List.replicate k ⟨.event, 0⟩ }

theorem State.served_eq_afterSlots {s : State} (free : s.stop = none) (calls : List Call) :
    (s.asked 7).served calls = s.afterSlots 1 calls := by
  simp [served, afterSlots, asked, free]

@[simp] theorem State.afterSlots_zero (s : State) : s.afterSlots 0 [] = s := by
  simp [afterSlots, asked]

theorem State.afterSlots_succ (k : Nat) (calls more : List Call) (s : State) :
    (s.afterSlots 1 calls).afterSlots k more = s.afterSlots (k + 1) (calls ++ more) := by
  simp [afterSlots, asked, List.replicate_succ, Nat.mul_succ, Nat.add_comm (7 * k), Nat.add_assoc]

theorem State.reports_of_answers {s : State} {p : Snapshot} {more : List Draw}
    (answers : s.answers = snapshotAnswers p ++ more) : s.reports p := by
  simp [State.reports_iff, answer, answers, snapshotAnswers]

theorem State.answer_after_snapshot {s : State} {p : Snapshot} {d : Draw} {more : List Draw}
    (answers : s.answers = snapshotAnswers p ++ d :: more) : s.answer 6 = d := by
  simp [answer, answers, snapshotAnswers]

/-! ## Bytes from the peer -/

/-- The snapshot of a data slot of a master-write (R177). -/
def writeSlot : Snapshot := ⟨false, false, false, false, true⟩

/-- The calls of SERVICE that takes the byte `b`. -/
def takeCalls (b : Byte) : List Call :=
  snapshotCalls writeSlot ++ [.receiveByte b, .signalContinue, .acknowledgeEvent]

/-- One such event: the byte goes behind the newest one of `rx`. -/
theorem exec_service_take {s : State} {b : Byte} {more : List Draw} (outside : s.inService = false) (free : s.stop = none)
    (calls : s.callsReturn) (room : s.rx.c.length ≠ s.cfg.nCap)
    (answers : s.answers = snapshotAnswers writeSlot ++ ⟨false, b⟩ :: more) :
    ∃ r : Ring, r.c = s.rx.c ++ [b] ∧ exec .service s = .next { s.afterSlots 1 (takeCalls b) with rx := r } := by
  have taken := (takeByte writeSlot s outside calls (State.reports_of_answers answers) rfl rfl rfl rfl).2 room
  rw [State.answer_after_snapshot answers] at taken
  obtain ⟨r, held, next⟩ := taken
  exact ⟨r, held, next.trans (by rw [State.served_eq_afterSlots free]; rfl)⟩

/-- The answers to as many events of a master-write. -/
def takeAnswers (bytes : List Byte) : List Draw := bytes.flatMap fun b => snapshotAnswers writeSlot ++ [⟨false, b⟩]

theorem takeAnswers_length (bytes : List Byte) : (takeAnswers bytes).length = 7 * bytes.length := by
  simp [takeAnswers, snapshotAnswers, List.length_flatMap, Nat.mul_comm]

/-- Bytes that fit go into `rx` in order, each in one SERVICE event; then the other commands run. -/
theorem execAll_takes (bytes : List Byte) (more : List Draw) (later : List Instr) (s : State)
    (outside : s.inService = false) (free : s.stop = none) (calls : s.callsReturn)
    (fits : s.rx.c.length + bytes.length ≤ s.cfg.nCap) (answers : s.answers = takeAnswers bytes ++ more) :
    ∃ r : Ring, r.c = s.rx.c ++ bytes ∧ execAll (List.replicate bytes.length .service ++ later) s = execAll later
      { s.afterSlots bytes.length (bytes.flatMap takeCalls) with rx := r } := by
  induction bytes generalizing s with
  | nil => exact ⟨s.rx, by simp, by simp⟩
  | cons b rest ih =>
    rw [List.length_cons] at fits
    have first : s.answers = snapshotAnswers writeSlot ++ ⟨false, b⟩ :: (takeAnswers rest ++ more) := by
      simp [answers, takeAnswers]
    obtain ⟨r, held, next⟩ := exec_service_take outside free calls (by omega) first
    obtain ⟨r', held', run⟩ := ih { s.afterSlots 1 (takeCalls b) with rx := r } outside free calls
      (by change r.c.length + _ ≤ s.cfg.nCap; simp [held]; omega) (congrArg (List.drop 7) first)
    refine ⟨r', by simp [held', held], ?_⟩
    rw [List.length_cons, List.replicate_succ, List.cons_append, execAll_cons_next next, run, List.flatMap_cons,
      ← State.afterSlots_succ]
    rfl

/-! ## The application reads inside `onReceive` -/

theorem appCommand_available (s : State) : appCommand s ⟨0x15, []⟩ = s.deliver .application s.rx.available :=
  appCommand_of_appMeaning (i := .available) (Laws.decodeWord_of_encodeWord rfl rfl rfl) rfl s

theorem appCommand_read (s : State) :
    appCommand s ⟨0x16, []⟩ = (s.readByte .rx).2.deliver .application (byteResult s.rx.c.head?) :=
  appCommand_of_appMeaning (i := .read) (Laws.decodeWord_of_encodeWord rfl rfl rfl) rfl s

/-- A callback that asks how many bytes there are and reads so many (R150, R151, R186). -/
def readingRun (n : Nat) : AppRun := ⟨⟨0x15, []⟩ :: List.replicate n ⟨0x16, []⟩, true⟩

theorem readingRun_admitted (n : Nat) : ∀ c ∈ (readingRun n).commands, c.admitted = true := by
  intro c listed
  rcases List.mem_cons.mp listed with rfl | read
  · decide
  · rw [List.eq_of_mem_replicate read]
    decide

/-- As many reads as `rx` holds bytes deliver these bytes, oldest first, and leave it empty (R151). -/
theorem foldl_appCommand_read (bytes : List Byte) (s : State) (held : s.rx.c = bytes) :
    (List.replicate bytes.length (⟨0x16, []⟩ : Command)).foldl appCommand s = { s with
      rx := { s.rx with c := [] }
      results := s.results ++ bytes.map fun b => ⟨.application, b.setWidth 32⟩ } := by
  induction bytes generalizing s with
  | nil => rw [List.length_nil, List.replicate_zero, List.foldl_nil, List.map_nil, List.append_nil, ← held]
  | cons v rest ih =>
    have popped : appCommand s ⟨0x16, []⟩
        = { s with rx := { s.rx with c := rest } }.deliver .application (v.setWidth 32) := by
      rw [appCommand_read, held]
      exact congrArg (fun r => State.deliver .application _ { s with rx := r }) (congrArg Prod.snd (Ring.read_cons held))
    rw [List.length_cons, List.replicate_succ, List.foldl_cons, popped, ih _ rfl]
    simp [State.deliver]

/-- The results of that callback: the number of bytes, then the bytes, oldest first. -/
theorem afterCallback_readingRun {s : State} {bytes : List Byte} {more : List AppRun} (held : s.rx.c = bytes)
    (apps : s.apps = readingRun bytes.length :: more) : s.afterCallback.results = s.results
      ++ ⟨.application, BitVec.ofNat 32 bytes.length⟩ :: bytes.map fun b => ⟨.application, b.setWidth 32⟩ := by
  rw [State.afterCallback_cons apps, readingRun, List.foldl_cons, appCommand_available,
    foldl_appCommand_read bytes (s.deliver _ _) held]
  simp [Ring.available, held]

/-- The peer's stop (R174). -/
def sessionEnd : Snapshot := ⟨false, true, false, false, false⟩

/-- Settles O51: the bytes are taken one by one, and the stop calls `onReceive`, whose commands read them all. -/
theorem inboundSession : Obligations.InboundSession := by
  intro bytes handle s more rest inv calls empty fits handler apps answers
  have script : s.answers = takeAnswers bytes ++ (snapshotAnswers sessionEnd ++ more) := by
    rw [answers, List.append_assoc]
    rfl
  obtain ⟨r, held, taken⟩ := execAll_takes bytes _ [.service] s inv.inService inv.stop calls (by simpa [empty] using fits)
    script
  rw [empty, List.nil_append] at held
  let t : State := { s.afterSlots bytes.length (bytes.flatMap takeCalls) with rx := r }
  have left : t.answers = snapshotAnswers sessionEnd ++ more := by
    change s.answers.drop _ = _
    rw [script, List.drop_left' (takeAnswers_length bytes)]
  have reading : t.apps = readingRun bytes.length :: rest := by
    rw [readingRun, ← List.map_const']
    exact apps
  have stopped := exec_service_onReceive (s := t) inv.inService inv.stop calls
    (State.callbackReturns_cons reading rfl (readingRun_admitted _)) (State.reports_of_answers left) rfl
    (congrArg HandlerSlot.registered handler)
  have run := taken.trans (execAll_cons_next stopped [])
  rw [← List.replicate_succ'] at run
  refine ⟨_, _, run, List.append_assoc .., ?_, ?_, rfl⟩
  · rw [List.filter_append, List.filter_flatMap]
    change bytes.flatMap (fun _ => []) ++ [Call.callbackOnReceive s.onReceiveHandler.handle r.available] = _
    simp [handler, Ring.available, held]
  · have results := congrArg (· ++ [(⟨.event, 0⟩ : Result)]) (afterCallback_readingRun held reading)
    refine results.trans ?_
    simp [t, State.afterSlots]

/-! ## Bytes to the peer -/

/-- The snapshot of a data slot of a master-read (R176). -/
def readSlot : Snapshot := ⟨false, false, false, true, true⟩

/-- The calls of SERVICE that supplies these bytes, and the fill byte once they are used up, with the peer's answers. -/
def supplyCalls : List Bool → List Byte → List Call
  | [], _ => []
  | a :: rest, bytes => snapshotCalls readSlot ++ .sendByte (bytes.head?.getD fillByte) a :: supplyCalls rest bytes.tail

/-- The peer gets the bytes in order and then the fill byte (R176). -/
theorem sentBytes_supplyCalls (acks : List Bool) (bytes : List Byte) :
    sentBytes (supplyCalls acks bytes) = (bytes ++ List.replicate acks.length 0xFF).take acks.length := by
  induction acks generalizing bytes with
  | nil => simp [supplyCalls, sentBytes]
  | cons a rest ih =>
    have sent : sentBytes (supplyCalls (a :: rest) bytes)
        = bytes.head?.getD fillByte :: sentBytes (supplyCalls rest bytes.tail) := rfl
    rw [sent, ih]
    cases bytes with
    | nil => simp [List.replicate_succ, fillByte]
    | cons b more =>
      simp [List.take_append, List.take_replicate]
      omega

/-- The state after as many data slots of a master-read. -/
def State.supplied (acks : List Bool) (s : State) : State :=
  { s.afterSlots acks.length (supplyCalls acks s.tx.c) with
    tx := { s.tx with c := s.tx.c.drop acks.length }
    transmissionOpen := acks.getLast?.getD s.transmissionOpen }

theorem exec_service_supply {s : State} {a : Bool} {more : List Draw} (outside : s.inService = false)
    (free : s.stop = none) (calls : s.callsReturn) (answers : s.answers = snapshotAnswers readSlot ++ ⟨a, 0⟩ :: more) :
    exec .service s = .next (s.supplied [a]) := by
  rw [supplyByte readSlot s outside calls (State.reports_of_answers answers) rfl rfl rfl rfl,
    State.answer_after_snapshot answers, State.served_eq_afterSlots free, State.supplied,
    List.length_singleton, List.drop_one]
  rfl

theorem State.supplied_cons (a : Bool) (rest : List Bool) (s : State) :
    (s.supplied [a]).supplied rest = s.supplied (a :: rest) := by
  have calls : supplyCalls (a :: rest) s.tx.c = supplyCalls [a] s.tx.c ++ supplyCalls rest (s.tx.c.drop 1) := by
    simp [supplyCalls]
  have dropped : s.tx.c.drop (a :: rest).length = (s.tx.c.drop 1).drop rest.length := by
    rw [List.drop_drop, List.length_cons, Nat.add_comm]
  conv_rhs => rw [State.supplied, calls, dropped, List.length_cons, ← State.afterSlots_succ, List.getLast?_cons]
  rfl

/-- Data slots of a master-read, one SERVICE event each. -/
theorem execAll_supplies (acks : List Bool) (more : List Draw) (s : State)
    (outside : s.inService = false) (free : s.stop = none) (calls : s.callsReturn)
    (answers : s.answers = acks.flatMap (fun a => snapshotAnswers readSlot ++ [⟨a, 0⟩]) ++ more) :
    execAll (List.replicate acks.length .service) s = .next (s.supplied acks) := by
  induction acks generalizing s with
  | nil => simp [State.supplied, supplyCalls, execAll]
  | cons a rest ih =>
    have first : s.answers = snapshotAnswers readSlot ++ ⟨a, 0⟩
        :: (rest.flatMap (fun a => snapshotAnswers readSlot ++ [⟨a, 0⟩]) ++ more) := by simp [answers]
    rw [List.length_cons, List.replicate_succ, execAll_cons_next (exec_service_supply outside free calls first),
      ih (s.supplied [a]) outside free calls (congrArg (List.drop 7) first), State.supplied_cons]

/-- The application presents `write(data, count)` (R127). -/
def writingCommand (count : Word) (data : List Byte) : Command := ⟨encodeWord (.writeBytes count data), data⟩

theorem writingCommand_decodes {count : Word} {data : List Byte} (length : data.length = count.toNat) :
    decodeWord (writingCommand count data).word (writingCommand count data).payload = .ok (.writeBytes count data) :=
  Laws.decodeWord_encodeWord (i := .writeBytes count data) (by simp [Instr.wellFormed, Instr.payloadMatches, length])

/-- Of the bytes written in a callback with `tx` open and empty, those that fit are held in order (R127, R186). -/
theorem appCommand_writingCommand {count : Word} {data : List Byte} (length : data.length = count.toNat) {s : State}
    (opened : s.transmissionOpen = true) (empty : s.tx.c = []) :
    (appCommand s (writingCommand count data)).tx.c = data.take s.cfg.nCap := by
  obtain ⟨r, held, -, stored⟩ := writeBytesNow_takes data s.cfg.nCap 0 s opened (by simp [empty])
  rw [appCommand_of_appMeaning (writingCommand_decodes length) rfl, stored]
  exact held.trans (by rw [empty, List.nil_append])

/-- An address match for a master-read (R175). -/
def readMatch : Snapshot := ⟨true, false, false, true, false⟩

/-- Settles O52: inside `onRequest` the bytes that fit go into the cleared `tx`, and the data slots take them out again. -/
theorem outboundSession : Obligations.OutboundSession := by
  intro data count handle acks s more rest inv calls length handler apps answers
  have script : s.answers = snapshotAnswers readMatch
      ++ (acks.flatMap (fun a => snapshotAnswers readSlot ++ [⟨a, 0⟩]) ++ more) := by
    rw [answers, List.append_assoc]
    rfl
  have writing : s.apps = ⟨[writingCommand count data], true⟩ :: rest := apps
  have admitted : ∀ c ∈ [writingCommand count data], c.admitted = true := fun c listed => by
    rw [List.mem_singleton.mp listed]
    exact admitted_of_appMeaning (writingCommand_decodes length) rfl
  have written : s.openedTx.afterCallback.tx.c = data.take s.cfg.nCap := by
    rw [State.afterCallback_cons (s := s.openedTx) writing]
    exact appCommand_writingCommand length rfl rfl
  let t : State := (s.openedTx.calledBack.asked 6).served (snapshotCalls readMatch
    ++ [.signalContinue, .acknowledgeEvent, .callbackOnRequest s.onRequestHandler.handle])
  have matched : exec .service s = .next t :=
    exec_service_onRequest inv.inService inv.stop calls (State.callbackReturns_cons writing rfl admitted)
      (State.reports_of_answers script) rfl rfl rfl (congrArg HandlerSlot.registered handler)
  have supplied : execAll (List.replicate acks.length .service) t = .next (t.supplied acks) :=
    execAll_supplies acks more t inv.inService rfl calls (congrArg (List.drop 6) script)
  refine ⟨_, _, (execAll_cons_next matched _).trans supplied, List.append_assoc .., ?_, rfl⟩
  rw [sentBytes_append, ← written]
  exact sentBytes_supplyCalls acks t.tx.c

end Sys2Proof.Machine

/-! THEOREMS. The bus stops of a command under any interleaving (R130, R143, R212). A command in the middle is read by the bus
stops it may still issue; an action issues one at most where it leaves one fewer, SERVICE issues none. -/

namespace Sys2Proof.Machine

/-- How many bus stops the rest of a command may issue, from this label on: one up to the stop rule of its transaction. -/
def Label.stopsLeft : Label → Nat
  | .e0 | .e1 | .e2 | .e2Own | .e2Read | .e2Send | .e2Clear | .e4
  | .f0 | .f1 | .f2 | .f3 | .f3Store | .f4 | .f4Own | .f5 | .f5Receive | .f5Store | .f6 | .f7 | .f7Stop => 1
  | .idle | .m0 | .m1 | .s0 | .s1 | .k0 | .k1 | .k2 | .k3 | .n0 | .z0 | .z1 | .z2 | .zClose | .b0 | .b1 | .b2 | .w0 | .w1
  | .x0 | .x1 | .x2 | .x3 | .e5 | .e6 | .f8 | .f9 | .f10 => 0

/-- How many bus stops these calls issue; one that never returns counts as well. -/
def busStops (calls : List Call) : Nat := (calls.map Call.request).count .issueBusStop

theorem busStops_append (a b : List Call) : busStops (a ++ b) = busStops a + busStops b := by
  simp [busStops]

theorem busStops_entry (c : Call) (s : State) : busStops [s.entry c] = if c.request = .issueBusStop then 1 else 0 := by
  simp [busStops, List.count_singleton]

/-- An action issues a bus stop only where it leaves one fewer to issue. -/
theorem act_busStops (s : State) (calls : List Call) : (act s).trace = s.trace ++ calls →
    busStops calls + (act s).ctx.seq.stopsLeft ≤ s.ctx.seq.stopsLeft := by
  have noCall : busStops [] = 0 := rfl
  cases hl : s.ctx.seq <;> simp only [act, hl]
  case idle => simp +contextual [noCall]
  all_goals
    simp only [actM0, actM1, actS0, actS1, actK0, actK1, actK2, actK3, actN0, actZ0, actZ1, actZ2, actZClose, actB0, actB1,
      actB2, actW0, actW1, actX0, actX1, actX2, actX3, actE0, actE1, actE2, actE2Own, actE2Read, actE2Send, actE2Clear,
      actE4, actE5, actE6, actF0, actF1, actF2, actF3, actF3Store, actF4, actF4Own, actF5, actF5Receive, actF5Store, actF6,
      actF7, actF7Stop, actF8, actF9, actF10]
    repeat' split
    all_goals
      simp +contextual [Label.stopsLeft, Ctx.idle, noCall, busStops_entry, Call.request, eq_comm (b := calls)]

/-- How many bus stops the running command may still issue; one that is stuck in a call issues none. -/
def State.stopsLeft (s : State) : Nat := if s.ctx.hung then 0 else s.ctx.seq.stopsLeft

theorem State.stopsLeft_le (s : State) : s.stopsLeft ≤ s.ctx.seq.stopsLeft := by
  unfold stopsLeft
  split <;> omega

theorem State.stopsLeft_of_free {s : State} (free : s.ctx.hung = false) : s.stopsLeft = s.ctx.seq.stopsLeft := by
  simp [stopsLeft, free]

/-- The command's run has come from `s` to `t`, and its calls with the bus stops it may still issue are within `n`. -/
def StopsWithin (n : Nat) (s t : State) : Prop :=
  ∃ calls, t.trace = s.trace ++ calls ∧ busStops calls + t.stopsLeft ≤ n

theorem StopsWithin.start (s : State) : StopsWithin s.ctx.seq.stopsLeft s s :=
  ⟨[], (List.append_nil _).symm, (Nat.zero_add _).trans_le s.stopsLeft_le⟩

/-- More calls, which use up some of the bus stops that were left to issue. -/
theorem StopsWithin.goOn {n : Nat} {s t u : State} {calls : List Call} (h : StopsWithin n s t)
    (made : u.trace = t.trace ++ calls) (left : busStops calls + u.stopsLeft ≤ t.stopsLeft) : StopsWithin n s u := by
  obtain ⟨before, trace, within⟩ := h
  refine ⟨before ++ calls, by rw [made, trace, List.append_assoc], ?_⟩
  rw [busStops_append]
  omega

/-- SERVICE issues no bus stop (R212). -/
theorem Served.busStops {s t : State} (h : Served s t) : ∃ calls, t.trace = s.trace ++ calls ∧ busStops calls = 0 :=
  h.trace.imp fun _ ⟨made, ofService⟩ => ⟨made, (ofService_calls ofService).2⟩

theorem StopsWithin.serviceSlot {n : Nat} {s t : State} (h : StopsWithin n s t) : StopsWithin n s (serviceSlot t) := by
  obtain ⟨calls, made, noStop⟩ := (serviceSlot_served t).busStops
  exact h.goOn made (by rw [noStop, State.stopsLeft, serviceSlot_ctx, State.stopsLeft, Nat.zero_add])

theorem StopsWithin.advance {n : Nat} {s t : State} (h : StopsWithin n s t) (free : t.ctx.hung = false) :
    StopsWithin n s (advance t) := by
  obtain ⟨calls, made⟩ := (act_acted t).trace
  have used : busStops calls + (act t).ctx.seq.stopsLeft ≤ t.stopsLeft :=
    (act_busStops t calls made).trans_eq (State.stopsLeft_of_free free).symm
  rcases advance_cases t with e | ⟨_, ⟨e, _⟩ | ⟨e, _⟩⟩ <;> rw [e]
  · exact h.goOn made ((Nat.add_le_add_left (State.stopsLeft_le _) _).trans used)
  · exact h
  · exact h.goOn made ((Nat.le_add_right _ _).trans used)

theorem StopsWithin.runCommand {n : Nat} {s t : State} (h : StopsWithin n s t) : StopsWithin n s (runCommand t) := by
  refine run_induction_running (StopsWithin n s) (fun u running within => ?_) _ t h
  have free : u.ctx.hung = false := (u.running_iff.mp running).2.1
  exact within.serviceSlot.advance (by rw [serviceSlot_ctx, free])

/-- The bus stops left at a command's first label are those the command may issue. -/
theorem firstCtx_stopsLeft (i : Instr) : (firstCtx i).seq.stopsLeft = mayIssueStops i := by cases i <;> rfl

/-- Settles O57: a run keeps its bus stops within what the command's first label leaves; the commands of one action and
SERVICE issue none. -/
theorem stopsAtMostOnce : Obligations.StopsAtMostOnce := by
  intro i s t next
  rcases exec_next next with ⟨_, rfl, _⟩ | ⟨_, rfl, _⟩ | ⟨served, _⟩
  · obtain ⟨calls, made, within⟩ := (StopsWithin.start (s.start (firstCtx i))).runCommand
    exact ⟨calls, made, (Nat.le_of_add_right_le within).trans_eq (firstCtx_stopsLeft i)⟩
  · exact (Served.serviceStep { s with stop := none }).busStops.imp
      fun _ ⟨made, noStop⟩ => ⟨made, noStop.trans_le (Nat.zero_le _)⟩
  · rw [← setRegisters_trace i s]
    exact served.busStops.imp fun _ ⟨made, noStop⟩ => ⟨made, noStop.trans_le (Nat.zero_le _)⟩

end Sys2Proof.Machine

/-! THEOREMS. The two hangs (R186, R202, log 14). The first stop that a SERVICE step meets is the one its command ends with,
and a foreground agent that is stuck is never run again. -/

namespace Sys2Proof.Machine

/-! ## A stop, once met, is kept -/

section Kept

variable {s : State} {y : Stop}

theorem call_stop_of_some (met : s.stop = some y) (c : Call) : (s.call c).stop = some y := by
  simp [State.call, met]

theorem askFlag_stop_of_some (met : s.stop = some y) (c : Bool → Call) : (s.askFlag c).2.stop = some y :=
  call_stop_of_some (s := s.dropDraw) met _

theorem askByte_stop_of_some (met : s.stop = some y) (c : Byte → Call) : (s.askByte c).2.stop = some y :=
  call_stop_of_some (s := s.dropDraw) met _

theorem ackEvent_stop_of_some (met : s.stop = some y) : (ackEvent s).stop = some y :=
  call_stop_of_some (call_stop_of_some met _) _

theorem callback_stop_of_some (met : s.stop = some y) (c : Call) : (s.callback c).stop = some y := by
  unfold State.callback
  split
  · exact met
  · rename_i r rest _
    have ran : (r.commands.foldl appCommand { s.record c with apps := rest }).stop = some y :=
      foldl_appCommand_stop_of_some _ met
    unfold runApp
    split
    · exact ran
    · exact raiseStop_of_some ran _

theorem serviceStop_stop_of_some (met : s.stop = some y) : (serviceStop s).stop = some y := by
  unfold serviceStop
  rw [State.clearBuf_stop]
  split
  · exact callback_stop_of_some (ackEvent_stop_of_some met) _
  · exact ackEvent_stop_of_some met

theorem serviceAddress_stop_of_some (met : s.stop = some y) (rd : Bool) : (serviceAddress rd s).stop = some y := by
  have acked := ackEvent_stop_of_some met
  cases rd with
  | false => exact acked
  | true =>
    change (if _ then State.callback _ _ else _ : State).stop = some y
    split
    · exact callback_stop_of_some (s := ((ackEvent s).clearBuf .tx).setOpen true) acked _
    · exact acked

theorem serviceTake_stop_of_some (met : s.stop = some y) : (serviceTake s).stop = some y := by
  refine call_stop_of_some ?_ _
  split
  · exact call_stop_of_some met _
  · exact call_stop_of_some (s := ((s.askByte .receiveByte).2.storeByte .rx _).2) (askByte_stop_of_some met _) _

theorem serviceCases_stop_of_some (met : s.stop = some y) (p : Snapshot) : (serviceCases p s).stop = some y := by
  unfold serviceCases
  repeat' split
  · exact serviceStop_stop_of_some met
  · exact serviceAddress_stop_of_some met _
  · exact askFlag_stop_of_some (s := (s.readByte .tx).2) met _
  · exact serviceTake_stop_of_some met
  · exact met

theorem readSnapshot_stop_of_some (met : s.stop = some y) : (readSnapshot s).2.stop = some y :=
  askFlag_stop_of_some (askFlag_stop_of_some (askFlag_stop_of_some (askFlag_stop_of_some
    (askFlag_stop_of_some met _) _) _) _) _

/-- The stop that a SERVICE step meets in its first question is the stop of the step. -/
theorem serviceStep_stop_of_asked (outside : s.inService = false)
    (met : (s.enterService.askFlag .isSlaveMode).2.stop = some y) : (serviceStep s).stop = some y := by
  simp only [serviceStep, outside, Bool.false_eq_true, ↓reduceIte, State.leaveService_stop]
  split
  · exact serviceCases_stop_of_some (readSnapshot_stop_of_some met) _
  · exact met

theorem serviceStep_stop_of_some (met : s.stop = some y) : (serviceStep s).stop = some y := by
  cases outside : s.inService with
  | true => simpa [serviceStep, outside] using met
  | false => exact serviceStep_stop_of_asked outside (askFlag_stop_of_some (s := s.enterService) met _)

end Kept

/-! ## A call that never returns, in SERVICE -/

/-- The next call meets its stop, and leaves its request in the event history (R202). -/
theorem State.call_stop_of_hangs {s : State} {more : List Nat} (hangs : s.callsLeft = 0 :: more) (free : s.stop = none)
    (c : Call) : (s.call c).stop = some (.fault (.peripheralNeverReturns (s.trace ++ [.unreturned c.request]))) := by
  simp [call, free, State.entry_hangs c s more hangs, nextCallHangs, hangs]

/-- Where the next call never returns, a SERVICE step stops at its first question. -/
theorem serviceStep_stop_of_hangs {s : State} {more : List Nat} (hangs : s.callsLeft = 0 :: more) (free : s.stop = none)
    (outside : s.inService = false) :
    (serviceStep s).stop = some (.fault (.peripheralNeverReturns (s.trace ++ [.unreturned .isSlaveMode]))) :=
  serviceStep_stop_of_asked outside
    (State.call_stop_of_hangs (s := s.enterService.dropDraw) hangs free (.isSlaveMode s.enterService.nextDraw.flag))

/-- A SERVICE event that meets a fault ends in it. -/
theorem exec_service_fault {s : State} {f : Fault} (met : (serviceStep { s with stop := none }).stop = some (.fault f)) :
    exec .service s = .fault f := by
  rw [exec, execService, outcome_serviceStep, met]

/-- The SERVICE steps before an action meet what the first of them meets. -/
theorem serviceSlot_stop_of_first {s : State} {k : Nat} {rest : List Nat} {y : Stop} (schedule : s.schedule = (k + 1) :: rest)
    (met : (serviceStep { s with schedule := rest }).stop = some y) : (serviceSlot s).stop = some y := by
  rw [serviceSlot, schedule]
  exact serviceSteps_induction (fun t => t.stop = some y) (fun _ => serviceStep_stop_of_some) k _ met

theorem commandFuel_pos (s : State) : ∃ n, commandFuel s = n + 1 := ⟨_, rfl⟩

/-- A stop met by the SERVICE steps before a command's first action ends its run there. -/
theorem runCommand_of_slot_stop {s : State} {y : Stop} (running : s.running = true) (met : (serviceSlot s).stop = some y) :
    runCommand s = serviceSlot s := by
  have stays : advance (serviceSlot s) = serviceSlot s := by simp [advance, met]
  obtain ⟨n, fuel⟩ := commandFuel_pos s
  rw [runCommand, fuel, run_succ n s running, stays, run_stopped n _ (by simp [State.running, met])]

/-- A command whose first slot meets a fault in SERVICE ends in it: the foreground waits for SERVICE (R57). -/
theorem exec_fault_of_slot {i : Instr} {s : State} {f : Fault} (several : isMacro i = true)
    (met : (serviceSlot (s.start (firstCtx i))).stop = some (.fault f)) : exec i s = .fault f := by
  rw [exec_eq_execFrom several, execFrom, outcome_runCommand, runCommand_of_slot_stop (start_running several s) met, met]

/-! ## A callback that never returns -/

theorem foldl_appCommand_trace (l : List Command) (s : State) : (l.foldl appCommand s).trace = s.trace :=
  List.foldlRecOn (motive := fun t : State => t.trace = s.trace) l appCommand rfl fun t same c _ => by
    obtain ⟨-, -, -, -, -, -, -, -, -, -, -, -, -, -, trace⟩ := appCommand_frame t c
    exact trace.trans same

/-- A callback that presents admitted commands and then hangs is a stop with its hand-over in the event history (R186). -/
theorem callback_stop_of_hangs {s : State} {commands : List Command} {more : List AppRun} (free : s.stop = none)
    (apps : s.apps = ⟨commands, false⟩ :: more) (admitted : ∀ c ∈ commands, c.admitted = true) (c : Call) :
    (s.callback c).stop = some (.fault (.callbackNeverReturns (s.trace ++ [c]))) := by
  let u : State := { s.record c with apps := more }
  have met : (commands.foldl appCommand u).stop = none := (foldl_appCommand_stop_of_admitted admitted u).trans free
  have trace : (commands.foldl appCommand u).trace = s.trace ++ [c] := foldl_appCommand_trace commands u
  rw [callback_cons apps, ← trace]
  exact raiseStop_of_none met _

/-- The case of a snapshot that calls a callback meets what the callback meets, after the acknowledgement (R174, R175). -/
theorem serviceCases_serving_callsBack {s : State} {p : Snapshot} (calls : s.callsReturn) (back : s.callsBack p) (n : Nat)
    (made : List Call) : ∃ u : State, u.apps = s.apps ∧ u.trace = s.trace
      ∧ (serviceCases p (s.serving n made)).stop
        = ((u.serving n (made ++ [Call.signalContinue, .acknowledgeEvent])).callback (s.handOver p)).stop := by
  rcases back with ⟨ends, registered⟩ | ⟨noEnd, matched, read, registered⟩
  · refine ⟨s, rfl, rfl, ?_⟩
    rw [serviceCases, if_pos ends, serviceStop_serving calls, if_pos registered, State.clearBuf_stop, State.handOver,
      if_pos ends]
  · refine ⟨s.openedTx, rfl, rfl, ?_⟩
    rw [serviceCases_of_match noEnd matched, read, serviceAddress_read_serving calls, if_pos registered, State.handOver,
      noEnd, if_neg Bool.false_ne_true]

/-- A SERVICE event whose callback never returns ends in that fault. -/
theorem exec_service_callback_hangs {s : State} {p : Snapshot} {commands : List Command} {more : List AppRun}
    (outside : s.inService = false) (calls : s.callsReturn) (reports : s.reports p) (back : s.callsBack p)
    (apps : s.apps = ⟨commands, false⟩ :: more) (admitted : ∀ c ∈ commands, c.admitted = true) :
    exec .service s = .fault (.callbackNeverReturns
      (s.trace ++ snapshotCalls p ++ [.signalContinue, .acknowledgeEvent, s.handOver p])) := by
  have snapshot : State.snapped p { s with stop := none } = s.serving 6 (snapshotCalls p) := rfl
  obtain ⟨u, sameApps, sameTrace, stop⟩ := serviceCases_serving_callsBack calls back 6 (snapshotCalls p)
  apply exec_service_fault
  rw [serviceStep_of_reports (s := { s with stop := none }) outside calls reports, State.leaveService_stop, snapshot, stop,
    callback_stop_of_hangs (s := u.serving 6 _) rfl (sameApps.trans apps) admitted]
  simp [State.serving, sameTrace]

/-! ## A call of the foreground agent that never returns -/

/-- The sequencer's next action makes the call `c`, which never returns; `more` says which later ones return. -/
structure HangsAt (u : State) (c : Call) (more : List Nat) : Prop where
  running : u.running = true
  schedule : u.schedule = []
  hangs : u.callsLeft = 0 :: more
  trace : (act u).trace = (u.call c).trace
  callsLeft : (act u).callsLeft = (u.call c).callsLeft
  stop : (act u).stop = (u.call c).stop

/-- The action does not complete: nothing of it is seen but the call (R202). -/
theorem HangsAt.reaches {u : State} {c : Call} {more : List Nat} (h : HangsAt u c more) :
    Reaches u (u.stuckIn c.request more u.ctx) := by
  have free : u.stop = none := (u.running_iff.mp h.running).2.2
  have met : (act u).stop.isSome = true := by simp [h.stop, State.call_stop_of_hangs h.hangs free]
  have trace : (act u).trace = u.trace ++ [.unreturned c.request] := by
    rw [h.trace, State.call_trace, State.entry_hangs c u more h.hangs]
  have left : (act u).callsLeft = more := by rw [h.callsLeft, State.call_callsLeft, h.hangs, spendCall]
  refine ⟨1, ?_⟩
  rw [run_succ_quiet 0 u h.running h.schedule, run_zero]
  simp [advance, met, State.hang, State.stuckIn, trace, left, free]

/-- An undisturbed command that reaches a state at rest ends there, whatever its buffers hold. -/
theorem runCommand_of_undisturbed {s t : State} (h : Reaches s t) (rest : t.running = false) (course : OnCourse s.ctx)
    (undisturbed : s.undisturbed) : runCommand s = t := by
  obtain ⟨n, rfl⟩ := h
  refine run_over_unique (run_ends_quiet _ s course undisturbed ?_) rest
  have := rank_le s
  unfold commandFuel
  omega

/-- A command whose own actions reach a call that never returns ends stuck in that call. -/
theorem exec_hangs {i : Instr} {s u : State} {c : Call} {more : List Nat} (several : isMacro i = true)
    (undisturbed : s.undisturbed) (h : Reaches (s.start (firstCtx i)) u) (hang : HangsAt u c more) :
    exec i s = .next (u.stuckIn c.request more u.ctx) := by
  have ended : runCommand (s.start (firstCtx i)) = u.stuckIn c.request more u.ctx :=
    runCommand_of_undisturbed (h.trans hang.reaches) (by simp [State.running, State.stuckIn]) (firstCtx_onCourse i)
      undisturbed
  rw [exec_eq_execFrom several, execFrom, outcome_runCommand, ended]
  rfl

section FirstCallHangs

variable {s : State} {more : List Nat} (hangs : s.callsLeft = 0 :: more) (undisturbed : s.undisturbed)

include hangs undisturbed

/-- A command whose first action makes the call `c`. -/
theorem exec_hangs_at_once {i : Instr} (c : Call) (several : isMacro i = true)
    (trace : (act (s.start (firstCtx i))).trace = ((s.start (firstCtx i)).call c).trace)
    (left : (act (s.start (firstCtx i))).callsLeft = ((s.start (firstCtx i)).call c).callsLeft)
    (stop : (act (s.start (firstCtx i))).stop = ((s.start (firstCtx i)).call c).stop) :
    ∃ e : Ctx, e.seq ≠ .idle ∧ exec i s = .next (s.stuckIn c.request more e) :=
  ⟨firstCtx i, firstCtx_seq several, exec_hangs several undisturbed (Reaches.refl _)
    ⟨start_running several s, undisturbed, hangs, trace, left, stop⟩⟩

/-- SET_CLOCK has kept the rate before its first call (R122). -/
theorem exec_setClock_hangs (r : Word) : ∃ c : Ctx, c.seq ≠ .idle
    ∧ exec (.setClock r) s = .next { s.stuckIn .disable more c with activeClockRate := r } := by
  let s0 := s.start (firstCtx (.setClock r))
  have kept : Reaches s0 (actK0 s0) := Reaches.silent rfl undisturbed rfl rfl
  have hang : HangsAt (actK0 s0) .disable more := ⟨rfl, undisturbed, hangs, rfl, rfl, rfl⟩
  exact ⟨(actK0 s0).ctx, Label.noConfusion, exec_hangs rfl undisturbed kept hang⟩

/-- END_TRANSMISSION has closed the transmission before its start condition (R128). -/
theorem exec_endTransmission_hangs (stop : Bool) : ∃ c : Ctx, c.seq ≠ .idle ∧ exec (.endTransmission stop) s
    = .next { s.stuckIn (.startTransaction s.targetAddress .write) more c with transmissionOpen := false } := by
  let s0 := s.start (firstCtx (.endTransmission stop))
  have closed : Reaches s0 (actE0 s0) := Reaches.silent rfl undisturbed rfl rfl
  have asks : act (actE0 s0) = actE1 (actE0 s0) := rfl
  have hang : HangsAt (actE0 s0) (.startTransaction s.targetAddress .write (actE0 s0).nextDraw.flag) more := by
    refine ⟨rfl, undisturbed, hangs, ?_, ?_, ?_⟩ <;> rw [asks, actE1] <;> split <;> rfl
  exact ⟨(actE0 s0).ctx, Label.noConfusion, exec_hangs rfl undisturbed closed hang⟩

/-- REQUEST_FROM has cleared `rx` before its start condition (R140). -/
theorem exec_requestFrom_hangs (address : Byte) {quantity : Word} (stop : Bool) (nonzero : quantity ≠ 0) :
    ∃ c : Ctx, c.seq ≠ .idle ∧ exec (.requestFrom address quantity stop) s
      = .next { s.stuckIn (.startTransaction address .read) more c with rx := { s.rx with c := [] } } := by
  let s0 := s.start (firstCtx (.requestFrom address quantity stop))
  let s1 := actF1 (s0.goto .f1)
  have counted : act s0 = s0.goto .f1 := if_neg nonzero
  have toClear : Reaches s0 (s0.goto .f1) := Reaches.silent rfl undisturbed counted rfl
  have cleared : Reaches s0 s1 := toClear.trans (Reaches.silent (s := s0.goto .f1) rfl undisturbed rfl rfl)
  have hang : HangsAt s1 (.startTransaction address .read s1.nextDraw.flag) more :=
    ⟨rfl, undisturbed, hangs, rfl, rfl, rfl⟩
  exact ⟨s1.ctx, Label.noConfusion, exec_hangs rfl undisturbed cleared hang⟩

end FirstCallHangs

/-! ## The foreground agent is stuck -/

section Stuck

variable {s : State} (stuck : s.stuck = true)

include stuck

/-- While the foreground agent is stuck, only what is not the host's is taken (R202). -/
theorem nextPresented_of_stuck : s.nextPresented
    = (s.presented.find? fun p => p.port != .host).map fun p => (p, s.presented.eraseP fun x => x.port != .host) :=
  if_pos stuck

theorem nextPresented_of_stuck_host (host : ∀ x ∈ s.presented, x.port = .host) : s.nextPresented = none := by
  rw [nextPresented_of_stuck stuck, List.find?_eq_none.mpr fun x hx => by simp [host x hx], Option.map_none]

theorem nextPresented_of_stuck_behind {before rest : List Presented} {p : Presented}
    (presented : s.presented = before ++ p :: rest) (host : ∀ x ∈ before, x.port = .host) (other : p.port ≠ .host) :
    s.nextPresented = some (p, before ++ rest) := by
  have passed : ∀ x ∈ before, ¬(x.port != Port.host) = true := fun x hx => by simp [host x hx]
  rw [nextPresented_of_stuck stuck, presented, List.find?_append, List.find?_eq_none.mpr passed,
    List.eraseP_append_right _ passed]
  simp [other]

theorem port_of_nextPresented_of_stuck {p : Presented} {rest : List Presented}
    (next : s.nextPresented = some (p, rest)) : p.port ≠ .host := by
  rw [nextPresented_of_stuck stuck, Option.map_eq_some_iff] at next
  obtain ⟨q, found, ⟨⟩⟩ := next
  simpa using List.find?_some found

theorem hung_of_stuck : s.ctx.hung = true := (Bool.and_eq_true_iff.mp stuck).2

theorem step_of_stuck_waits (nothing : s.nextPresented = none) : step s = .next s := by
  simp [step, hung_of_stuck stuck, nothing]

theorem step_of_stuck_takes {p : Presented} {rest : List Presented} {i : Instr} (next : s.nextPresented = some (p, rest))
    (accepted : accept p = .ok i) : step s = exec i { s with presented := rest } := by
  simp [step, hung_of_stuck stuck, next, accepted]

theorem step_of_stuck_refuses {p : Presented} {rest : List Presented} {r : Refusal}
    (next : s.nextPresented = some (p, rest)) (refused : accept p = .error r) : step s = .refused r := by
  simp [step, hung_of_stuck stuck, next, refused]

end Stuck

/-- Only the host's port admits a command of class host (R73). -/
theorem Port.admits_host_iff (p : Port) : p.admits .host = true ↔ p = .host := by cases p <;> simp [Port.admits]

theorem admits_of_accept {p : Presented} {i : Instr} (accepted : accept p = .ok i) :
    p.port.admits i.opcode.cmdClass = true := by
  unfold accept at accepted
  split at accepted
  · cases accepted
  · split at accepted
    case isTrue admits =>
      cases accepted
      exact admits
    case isFalse => cases accepted

/-- What a port other than the host's admits is one action, or SERVICE (R73). -/
theorem isMacro_of_accept {p : Presented} {i : Instr} (accepted : accept p = .ok i) (other : p.port ≠ .host) :
    isMacro i = false := by
  by_contra several
  have admits := admits_of_accept accepted
  rw [cmdClass_of_isMacro (Bool.not_eq_false _ ▸ several), Port.admits_host_iff] at admits
  exact other admits

theorem setRegisters_ctx (i : Instr) (s : State) : (setRegisters i s).ctx = s.ctx := by cases i <;> rfl

/-- A command of one action, and SERVICE, leave the sequencer context as it is. -/
theorem exec_ctx {i : Instr} {s t : State} (single : isMacro i = false) (next : exec i s = .next t) : t.ctx = s.ctx := by
  rcases exec_next next with ⟨several, _⟩ | ⟨_, rfl, _⟩ | ⟨served, _⟩
  · rw [single] at several
    cases several
  · exact (Served.serviceStep { s with stop := none }).ctx
  · exact served.ctx.trans (setRegisters_ctx i s)

/-- A stuck foreground agent stays where it is (R202). -/
theorem step_ctx_of_stuck {s t : State} (stuck : s.stuck = true) (next : step s = .next t) : t.ctx = s.ctx := by
  cases taken : s.nextPresented with
  | none =>
    rw [step_of_stuck_waits stuck taken] at next
    cases next
    rfl
  | some taking =>
    obtain ⟨p, rest⟩ := taking
    cases accepted : accept p with
    | error r =>
      rw [step_of_stuck_refuses stuck taken accepted] at next
      cases next
    | ok i =>
      rw [step_of_stuck_takes stuck taken accepted] at next
      have single : isMacro i = false := isMacro_of_accept accepted (port_of_nextPresented_of_stuck stuck taken)
      exact exec_ctx (s := { s with presented := rest }) single next

/-- An event behind commands of the host is served (R202). -/
theorem step_of_stuck_serves {s : State} {before rest : List Presented} {p : Presented} (stuck : s.stuck = true)
    (presented : s.presented = before ++ p :: rest) (host : ∀ x ∈ before, x.port = .host) (port : p.port = .event)
    (decoded : decodeWord p.command.word p.command.payload = .ok .service) :
    step s = exec .service { s with presented := before ++ rest } :=
  step_of_stuck_takes stuck (nextPresented_of_stuck_behind stuck presented host (by simp [port]))
    (accept_admitted decoded (by rw [port]; rfl))

/-- Settles O55: the foreground's first call leaves it stuck and the stuck agent is passed over; a hang of SERVICE or of its
callback is the stop of the step, and so of the command in whose first slot the step falls. -/
theorem hangsAreKept : Obligations.HangsAreKept := by
  refine ⟨fun s more hangs undisturbed => ⟨?_, fun address gc => ?_, ?_, ?_, ?_, ?_⟩,
    fun _ _ => step_ctx_of_stuck, fun _ _ _ _ => step_of_stuck_serves,
    fun _ stuck host => step_of_stuck_waits stuck (nextPresented_of_stuck_host stuck host),
    fun s more hangs outside => ⟨?_, fun i k rest several schedule => ?_⟩,
    fun _ _ _ _ => exec_service_callback_hangs⟩
  · exact exec_hangs_at_once hangs undisturbed (.configureAsMaster _) rfl rfl rfl rfl
  · exact exec_hangs_at_once hangs undisturbed (.configureAsSlave address gc) rfl rfl rfl rfl
  · exact exec_setClock_hangs hangs undisturbed
  · exact exec_hangs_at_once hangs undisturbed .disable rfl rfl rfl rfl
  · exact exec_endTransmission_hangs hangs undisturbed
  · exact fun address _ stop nonzero => exec_requestFrom_hangs hangs undisturbed address stop nonzero
  · exact exec_service_fault (serviceStep_stop_of_hangs (more := more) hangs rfl outside)
  · exact exec_fault_of_slot several (serviceSlot_stop_of_first (rest := rest) schedule
      (serviceStep_stop_of_hangs (more := more) hangs rfl outside))

end Sys2Proof.Machine

/-! THEOREMS. The error codes of END_TRANSMISSION (R231): the result as a code in the terms of the calls, and what the code
goes along with. -/

namespace Sys2Proof.Machine

/-- The cause of the result in the terms of the calls (R231): the timeout overrides the start, the start a byte. -/
def shownError (calls : List Call) : ErrorCode :=
  if sawTimeout calls then .timeout else if hasAddressNack calls then .addressNack
    else if hasDataNack calls then .dataNack else .success

theorem sendWhole_result_code (stop : Bool) (s : State) :
    (sendWhole stop s).result = codeResult (shownError (sendWhole stop s).calls) := by
  rw [sendWhole_result, shownError]
  split
  · rfl
  · split
    · rfl
    · split <;> rfl

/-- A byte is sent only where the start was acknowledged (R128, R135). -/
theorem sendBytesRun_started_of_failed {s : State} (failed : (sendBytesRun s).failed = true) :
    (s.answer 0).flag = true := by
  by_contra unstarted
  rw [sendBytesRun, if_neg unstarted] at failed
  cases failed

/-- A byte that was not acknowledged discards the others, and excludes the error of the start (R128, R133). -/
theorem sendWhole_of_dataNack {stop : Bool} {s : State} (nack : hasDataNack (sendWhole stop s).calls = true) :
    (sendWhole stop s).bytes = [] ∧ hasAddressNack (sendWhole stop s).calls = false := by
  obtain ⟨addressNack, dataNack, _⟩ := sendWhole_errors stop s
  obtain ⟨_, sent⟩ := sendWhole_sentInOrder stop s
  refine ⟨sent.kept.trans (if_pos nack), ?_⟩
  rw [addressNack, sendBytesRun_started_of_failed (dataNack ▸ nack)]
  rfl

/-- The bus reset of a timeout is the only configuration that END_TRANSMISSION makes (R131). -/
theorem configurationCalls_sendWhole (stop : Bool) (s : State) :
    configurationCalls (sendWhole stop s).calls
      = if sawTimeout (sendWhole stop s).calls then busResetCalls s.activeClockRate else [] := by
  obtain ⟨_, _, timeout⟩ := sendWhole_errors stop s
  rw [timeout, sendWhole_calls, configurationCalls_append, configurationCalls_sendingCalls]
  cases sendStops stop s <;> cases sendTimedOut stop s <;> rfl

/-- Settles O29: the codes are computed, and END_TRANSMISSION undisturbed is `sendWhole`. -/
theorem errorCodeCauses : Obligations.ErrorCodeCauses := by
  refine ⟨rfl, fun stop s undisturbed calls legal within => ?_⟩
  have run := exec_endTransmission stop undisturbed calls fun _ => State.tx_short legal within
  exact ⟨_, (sendWhole stop s).calls, run, rfl, State.lastResult_host rfl (sendWhole_result_code stop s),
    sendWhole_of_dataNack, configurationCalls_sendWhole stop s⟩

end Sys2Proof.Machine

/-! THEOREMS. The block that waits with nothing presented (R72, R263), and the state at creation (R260). -/

namespace Sys2Proof.Machine

theorem nextPresented_of_idle_nil {s : State} (idle : s.ctx.seq = .idle) (nothing : s.presented = []) :
    s.nextPresented = none := by
  simp [State.nextPresented, State.stuck, idle, nothing]

/-- Settles O8: no command goes on, and there is no presentation to take. -/
theorem waitsWhenIdle : Obligations.WaitsWhenIdle := by
  intro s idle nothing
  simp [step, idle, nextPresented_of_idle_nil idle nothing]

/-- At creation no SERVICE step is scheduled. -/
theorem State.reset_undisturbed : State.reset.undisturbed := rfl

/-- Settles O10: the elements are read off the state at creation, where BEGIN_TRANSMISSION runs undisturbed (R125). -/
theorem resetState : Obligations.ResetState :=
  ⟨rfl, rfl, rfl, rfl, rfl, rfl, rfl, rfl, rfl,
    fun address => ⟨_, exec_beginTransmission address State.reset_undisturbed, rfl⟩⟩

end Sys2Proof.Machine
